-- ==== Sys2Proof/Word.lean ====
section
/-! DEFINITION. The word types of the machine (00_scope.md R8, R10; 30_encoding.md R71 to R73). -/

namespace Sys2Proof

/-- A 4-bit value: a register index, a key, a row count (00_scope.md R14, 30_encoding.md R72). -/
abbrev Nibble := BitVec 4

/-- The 8-bit value of a general register, a timer or a memory byte. -/
abbrev Byte := BitVec 8

/-- A 12-bit address field of an instruction (`addr`, 30_encoding.md R73). -/
abbrev Addr := BitVec 12

/-- A 16-bit value: an opcode word, I, pc, a stack slot. -/
abbrev Word := BitVec 16

end Sys2Proof
end

