-- ==== Sys2Proof/Syntax.lean ====
section
/-! DEFINITION. The instructions: one constructor for each of the 36 kinds of 30_encoding.md R85. -/

namespace Sys2Proof

/-- A decoded instruction with its operand fields (30_encoding.md R73, R85). -/
inductive Instr where
  /-- 00E0 (44_timers_io.md R211) -/
  | cls
  /-- 00EE (41_control_flow.md R120) -/
  | ret
  /-- 0nnn but 00E0 and 00EE (40_execution_cycle.md R107) -/
  | sys (addr : Addr)
  /-- 1nnn (41_control_flow.md R121) -/
  | jp (addr : Addr)
  /-- 2nnn (41_control_flow.md R122) -/
  | call (addr : Addr)
  /-- 3xkk (41_control_flow.md R123) -/
  | seVxKk (x : Nibble) (kk : Byte)
  /-- 4xkk (41_control_flow.md R124) -/
  | sneVxKk (x : Nibble) (kk : Byte)
  /-- 5xy0 (41_control_flow.md R125) -/
  | seVxVy (x y : Nibble)
  /-- 6xkk (42_alu.md R151) -/
  | ldVxKk (x : Nibble) (kk : Byte)
  /-- 7xkk (42_alu.md R152) -/
  | addVxKk (x : Nibble) (kk : Byte)
  /-- 8xy0 (42_alu.md R153) -/
  | ldVxVy (x y : Nibble)
  /-- 8xy1 (42_alu.md R154) -/
  | or (x y : Nibble)
  /-- 8xy2 (42_alu.md R155) -/
  | and (x y : Nibble)
  /-- 8xy3 (42_alu.md R156) -/
  | xor (x y : Nibble)
  /-- 8xy4 (42_alu.md R157) -/
  | addVxVy (x y : Nibble)
  /-- 8xy5 (42_alu.md R158) -/
  | sub (x y : Nibble)
  /-- 8xy6, y ignored (42_alu.md R159; log 23) -/
  | shr (x : Nibble)
  /-- 8xy7 (42_alu.md R160) -/
  | subn (x y : Nibble)
  /-- 8xyE, y ignored (42_alu.md R161; log 23) -/
  | shl (x : Nibble)
  /-- 9xy0 (41_control_flow.md R126) -/
  | sneVxVy (x y : Nibble)
  /-- Annn (43_index_memory.md R180) -/
  | ldIAddr (addr : Addr)
  /-- Bnnn (41_control_flow.md R127) -/
  | jpV0Addr (addr : Addr)
  /-- Cxkk (42_alu.md R163) -/
  | rnd (x : Nibble) (kk : Byte)
  /-- Dxyn (44_timers_io.md R212) -/
  | drw (x y n : Nibble)
  /-- Ex9E (44_timers_io.md R215) -/
  | skp (x : Nibble)
  /-- ExA1 (44_timers_io.md R216) -/
  | sknp (x : Nibble)
  /-- Fx07 (44_timers_io.md R217) -/
  | ldVxDt (x : Nibble)
  /-- Fx0A (44_timers_io.md R218) -/
  | ldVxK (x : Nibble)
  /-- Fx15 (44_timers_io.md R220) -/
  | ldDtVx (x : Nibble)
  /-- Fx18 (44_timers_io.md R221) -/
  | ldStVx (x : Nibble)
  /-- Fx1E (43_index_memory.md R181) -/
  | addIVx (x : Nibble)
  /-- Fx29 (43_index_memory.md R184) -/
  | ldFVx (x : Nibble)
  /-- Fx33 (43_index_memory.md R185) -/
  | ldBVx (x : Nibble)
  /-- Fx55 (43_index_memory.md R186) -/
  | ldIVx (x : Nibble)
  /-- Fx65 (43_index_memory.md R187) -/
  | ldVxI (x : Nibble)
  /-- every other word (40_execution_cycle.md R108, 30_encoding.md R80) -/
  | unknown (w : Word)
  deriving DecidableEq, Repr

end Sys2Proof
end

