-- ==== Sys2Proof/WellFormed.lean ====
section
/-! DEFINITION. Which terms of `Instr` stand for a word of their own kind (30_encoding.md R75, R80). The
widths of the fields hold by their types, so only two kinds need a check. -/

namespace Sys2Proof

/-- The words that no row of the dispatch table matches, row by row of 30_encoding.md R80. -/
def isUnknownWord (w : Word) : Bool :=
  match w.toNat / 0x1000, w.toNat % 0x10, w.toNat % 0x100 with
  | 0x5, n, _ => n != 0
  | 0x8, n, _ => n == 0x8 || n == 0x9 || n == 0xA || n == 0xB || n == 0xC || n == 0xD || n == 0xF
  | 0x9, n, _ => n != 0
  | 0xE, _, kk => kk != 0x9E && kk != 0xA1
  | 0xF, _, kk => !([0x07, 0x0A, 0x15, 0x18, 0x1E, 0x29, 0x33, 0x55, 0x65].contains kk)
  | _, _, _ => false

/-- A well-formed instruction: `SYS` is any 0nnn but 00E0 and 00EE, which are CLS and RET, and `UNKNOWN`
holds a word of 30_encoding.md R80. -/
def Instr.wf : Instr → Bool
  | .sys addr => addr != 0x0E0 && addr != 0x0EE
  | .unknown w => isUnknownWord w
  | .cls | .ret | .jp _ | .call _ | .seVxKk _ _ | .sneVxKk _ _ | .seVxVy _ _ | .ldVxKk _ _
  | .addVxKk _ _ | .ldVxVy _ _ | .or _ _ | .and _ _ | .xor _ _ | .addVxVy _ _ | .sub _ _ | .shr _
  | .subn _ _ | .shl _ | .sneVxVy _ _ | .ldIAddr _ | .jpV0Addr _ | .rnd _ _ | .drw _ _ _ | .skp _
  | .sknp _ | .ldVxDt _ | .ldVxK _ | .ldDtVx _ | .ldStVx _ | .addIVx _ | .ldFVx _ | .ldBVx _
  | .ldIVx _ | .ldVxI _ => true

end Sys2Proof
end

