-- ==== Sys2Proof/Decode.lean ====
section
/-! DEFINITION. The decoder and the encoder (30_encoding.md R70 to R75, R85). -/

namespace Sys2Proof

/-- `n0 = w[15:12]` (30_encoding.md R71). -/
def fieldN0 (w : Word) : Nibble := w.extractLsb' 12 4

/-- `x = n1 = w[11:8]` (30_encoding.md R73). -/
def fieldX (w : Word) : Nibble := w.extractLsb' 8 4

/-- `y = n2 = w[7:4]` (30_encoding.md R73). -/
def fieldY (w : Word) : Nibble := w.extractLsb' 4 4

/-- `n = n3 = w[3:0]` (30_encoding.md R73). -/
def fieldN (w : Word) : Nibble := w.extractLsb' 0 4

/-- `kk = w[7:0]` (30_encoding.md R73). -/
def fieldKk (w : Word) : Byte := w.extractLsb' 0 8

/-- `addr = w[11:0]` (30_encoding.md R73). -/
def fieldAddr (w : Word) : Addr := w.extractLsb' 0 12

/-- The 0nnn row: the two fixed words first (30_encoding.md R75). -/
def decodeFixed (w : Word) : Instr :=
  if w = 0x00E0 then .cls
  else if w = 0x00EE then .ret
  else .sys (fieldAddr w)

/-- The 8xyN rows, selected by n3 (30_encoding.md R75). -/
def decodeAlu (w : Word) : Instr :=
  match (fieldN w).toNat with
  | 0x0 => .ldVxVy (fieldX w) (fieldY w)
  | 0x1 => .or (fieldX w) (fieldY w)
  | 0x2 => .and (fieldX w) (fieldY w)
  | 0x3 => .xor (fieldX w) (fieldY w)
  | 0x4 => .addVxVy (fieldX w) (fieldY w)
  | 0x5 => .sub (fieldX w) (fieldY w)
  | 0x6 => .shr (fieldX w)
  | 0x7 => .subn (fieldX w) (fieldY w)
  | 0xE => .shl (fieldX w)
  | _ => .unknown w

/-- The Exkk rows, selected by the low byte (30_encoding.md R75). -/
def decodeKeys (w : Word) : Instr :=
  match (fieldKk w).toNat with
  | 0x9E => .skp (fieldX w)
  | 0xA1 => .sknp (fieldX w)
  | _ => .unknown w

/-- The Fxkk rows, selected by the low byte (30_encoding.md R75). -/
def decodeMisc (w : Word) : Instr :=
  match (fieldKk w).toNat with
  | 0x07 => .ldVxDt (fieldX w)
  | 0x0A => .ldVxK (fieldX w)
  | 0x15 => .ldDtVx (fieldX w)
  | 0x18 => .ldStVx (fieldX w)
  | 0x1E => .addIVx (fieldX w)
  | 0x29 => .ldFVx (fieldX w)
  | 0x33 => .ldBVx (fieldX w)
  | 0x55 => .ldIVx (fieldX w)
  | 0x65 => .ldVxI (fieldX w)
  | _ => .unknown w

/-- `decode(w)`, total on words, selected by the high nibble (30_encoding.md R75, R76). The last arm is the
high nibble 0xF. -/
def decode (w : Word) : Instr :=
  match (fieldN0 w).toNat with
  | 0x0 => decodeFixed w
  | 0x1 => .jp (fieldAddr w)
  | 0x2 => .call (fieldAddr w)
  | 0x3 => .seVxKk (fieldX w) (fieldKk w)
  | 0x4 => .sneVxKk (fieldX w) (fieldKk w)
  | 0x5 => if fieldN w = 0 then .seVxVy (fieldX w) (fieldY w) else .unknown w
  | 0x6 => .ldVxKk (fieldX w) (fieldKk w)
  | 0x7 => .addVxKk (fieldX w) (fieldKk w)
  | 0x8 => decodeAlu w
  | 0x9 => if fieldN w = 0 then .sneVxVy (fieldX w) (fieldY w) else .unknown w
  | 0xA => .ldIAddr (fieldAddr w)
  | 0xB => .jpV0Addr (fieldAddr w)
  | 0xC => .rnd (fieldX w) (fieldKk w)
  | 0xD => .drw (fieldX w) (fieldY w) (fieldN w)
  | 0xE => decodeKeys w
  | _ => decodeMisc w

/-- Why a list of bytes holds no instruction. Every 16-bit word is one (30_encoding.md R76), so the only
reason is that fewer than two bytes are there (log 28, safe). -/
inductive DecodeError where
  | tooFewBytes
  deriving DecidableEq, Repr

/-- The word whose high byte is `hi` and low byte `lo`, the byte order of a fetch (20_memory.md R55). -/
def wordOfBytes (hi lo : Byte) : Word := hi ++ lo

/-- Decodes the first two bytes, high byte first, and answers the instruction with the bytes after it
(30_encoding.md R70, 20_memory.md R55). -/
def decodeBytes : List Byte → Except DecodeError (Instr × List Byte)
  | hi :: lo :: rest => .ok (decode (wordOfBytes hi lo), rest)
  | _ => .error .tooFewBytes

/-! ## The encoder -/

/-- Format `ADDR` (30_encoding.md R74). -/
def encAddr (op : Nibble) (addr : Addr) : Word := op ++ addr

/-- Format `XKK`, and `XFN` with a fixed low byte (30_encoding.md R74). -/
def encXkk (op x : Nibble) (kk : Byte) : Word := op ++ (x ++ kk)

/-- Format `XYN`, and `XY` with a fixed low nibble (30_encoding.md R74). -/
def encXyn (op x y n : Nibble) : Word := op ++ (x ++ (y ++ n))

/-- The word of an instruction (30_encoding.md R74, R85); SHR and SHL encode y = 0 (R86). -/
def encode : Instr → Word
  | .cls => 0x00E0
  | .ret => 0x00EE
  | .sys addr => encAddr 0x0 addr
  | .jp addr => encAddr 0x1 addr
  | .call addr => encAddr 0x2 addr
  | .seVxKk x kk => encXkk 0x3 x kk
  | .sneVxKk x kk => encXkk 0x4 x kk
  | .seVxVy x y => encXyn 0x5 x y 0x0
  | .ldVxKk x kk => encXkk 0x6 x kk
  | .addVxKk x kk => encXkk 0x7 x kk
  | .ldVxVy x y => encXyn 0x8 x y 0x0
  | .or x y => encXyn 0x8 x y 0x1
  | .and x y => encXyn 0x8 x y 0x2
  | .xor x y => encXyn 0x8 x y 0x3
  | .addVxVy x y => encXyn 0x8 x y 0x4
  | .sub x y => encXyn 0x8 x y 0x5
  | .shr x => encXyn 0x8 x 0x0 0x6
  | .subn x y => encXyn 0x8 x y 0x7
  | .shl x => encXyn 0x8 x 0x0 0xE
  | .sneVxVy x y => encXyn 0x9 x y 0x0
  | .ldIAddr addr => encAddr 0xA addr
  | .jpV0Addr addr => encAddr 0xB addr
  | .rnd x kk => encXkk 0xC x kk
  | .drw x y n => encXyn 0xD x y n
  | .skp x => encXkk 0xE x 0x9E
  | .sknp x => encXkk 0xE x 0xA1
  | .ldVxDt x => encXkk 0xF x 0x07
  | .ldVxK x => encXkk 0xF x 0x0A
  | .ldDtVx x => encXkk 0xF x 0x15
  | .ldStVx x => encXkk 0xF x 0x18
  | .addIVx x => encXkk 0xF x 0x1E
  | .ldFVx x => encXkk 0xF x 0x29
  | .ldBVx x => encXkk 0xF x 0x33
  | .ldIVx x => encXkk 0xF x 0x55
  | .ldVxI x => encXkk 0xF x 0x65
  | .unknown w => w

/-- The high byte of a word, `w[15:8]`. -/
def highByte (w : Word) : Byte := w.extractLsb' 8 8

/-- The low byte of a word, `w[7:0]`. -/
def lowByte (w : Word) : Byte := w.extractLsb' 0 8

/-- The bytes of an instruction as memory holds them, high byte first (20_memory.md R55). -/
def encodeBytes (i : Instr) : List Byte := [highByte (encode i), lowByte (encode i)]

/-- The 16-bit word of a row of spec/opcode_table.json: the low `nbits` bits of `w`, every bit above them 0. -/
def tableWord (nbits w : Nat) : Word := BitVec.ofNat 16 (w % 2 ^ nbits)

/-- The instruction the decoder reads from the bytes of a table row's word. No row is wider than one word. -/
def decodeTableWord (nbits w : Nat) : Option Instr :=
  match decodeBytes [highByte (tableWord nbits w), lowByte (tableWord nbits w)] with
  | .ok (i, _) => if nbits ≤ 16 then some i else none
  | .error _ => none

end Sys2Proof
end

