-- ==== Sys2Proof/Config.lean ====
section
/-! DEFINITION. What an implementation fixes (00_scope.md R8, R9) and the free values the environment
supplies (00_scope.md R15). -/

namespace Sys2Proof

/-- `MEM_SIZE`, 4096 bytes (00_scope.md R8). -/
abbrev memSize : Nat := 0x1000

/-- `DISPLAY_WIDTH`, 64 pixels (00_scope.md R8). -/
abbrev displayWidth : Nat := 64

/-- The end of the reserved region 0x000-0x1FF, `RESERVED_LOW` (00_scope.md R8, 20_memory.md R60). -/
abbrev reservedEnd : Nat := 0x200

/-- Bytes in a font glyph: 5, which the spec takes from general knowledge (43_index_memory.md R182; log 15,
PRESUMED). -/
abbrev glyphBytes : Nat := 5

/-- Bytes in the whole font: 16 glyphs (43_index_memory.md R182). -/
abbrev fontBytes : Nat := 80

/-- `PROGRAM_START`: 0x200, or 0x600 for the alternate convention (00_scope.md R9). -/
inductive ProgramStart where
  | at200
  | at600
  deriving DecidableEq, Repr

/-- `RESERVED_WRITE_POLICY`: what a store below 0x200 does (00_scope.md R9, 20_memory.md R60). -/
inductive ReservedWritePolicy where
  /-- The store happens like any other. -/
  | perform
  /-- The instruction halts with `ReservedWrite` before any of its writes (60_exceptions.md R256). -/
  | fault
  deriving DecidableEq, Repr

/-- The parameters that the document leaves open and a model takes as arguments (00_scope.md R9). -/
structure Config where
  programStart   : ProgramStart
  fontBase       : Nat
  fontData       : List Byte
  displayHeight  : Nat
  reservedWrites : ReservedWritePolicy
  deriving DecidableEq, Repr

/-- The address of `PROGRAM_START`. -/
def ProgramStart.addr : ProgramStart → Nat
  | .at200 => 0x200
  | .at600 => 0x600

/-- The legal values of the parameters (00_scope.md R9). -/
abbrev Config.wf (cfg : Config) : Prop :=
  cfg.fontBase + fontBytes ≤ reservedEnd ∧ cfg.fontData.length = fontBytes ∧ 0 < cfg.displayHeight

/-- The default `FONT_DATA`, digits 0 to 7 (43_index_memory.md R183; from general knowledge, log 15). -/
def fontLow : List Byte :=
  [0xF0, 0x90, 0x90, 0x90, 0xF0] ++ [0x20, 0x60, 0x20, 0x20, 0x70] ++
  [0xF0, 0x10, 0xF0, 0x80, 0xF0] ++ [0xF0, 0x10, 0xF0, 0x10, 0xF0] ++
  [0x90, 0x90, 0xF0, 0x10, 0x10] ++ [0xF0, 0x80, 0xF0, 0x10, 0xF0] ++
  [0xF0, 0x80, 0xF0, 0x90, 0xF0] ++ [0xF0, 0x10, 0x20, 0x40, 0x40]

/-- The default `FONT_DATA`, digits 8 to F (43_index_memory.md R183; from general knowledge, log 15). -/
def fontHigh : List Byte :=
  [0xF0, 0x90, 0xF0, 0x90, 0xF0] ++ [0xF0, 0x90, 0xF0, 0x10, 0xF0] ++
  [0xF0, 0x90, 0xF0, 0x90, 0x90] ++ [0xE0, 0x90, 0xE0, 0x90, 0xE0] ++
  [0xF0, 0x80, 0x80, 0x80, 0xF0] ++ [0xE0, 0x90, 0x90, 0x90, 0xE0] ++
  [0xF0, 0x80, 0xF0, 0x80, 0xF0] ++ [0xF0, 0x80, 0xF0, 0x80, 0x80]

/-- The parameter values of the spec's examples (00_scope.md R9). DESIGN CHOICE (log 1): `State.reset` is
the machine with these values. Claims quantify over every `Config`. -/
def Config.standard : Config where
  programStart   := .at200
  fontBase       := 0x000
  fontData       := fontLow ++ fontHigh
  displayHeight  := 32
  reservedWrites := .perform

/-- Free value (log 3): the byte the random source answers at the given draw, under no law (42_alu.md R163). -/
opaque Config.randomByte : Nat → Byte

/-- Free value (log 3): whether the keypad says the key is down at the given draw, under no law
(44_timers_io.md R214). -/
opaque Config.keyDown : Nat → Nibble → Bool

end Sys2Proof
end

