-- ==== Sys2Proof/Machine/State.lean ====
section
/-! DEFINITION. The state of the machine as plain data (10_state.md R20), the reasons a step can stop, and
the state after creation (10_state.md R39). -/

namespace Sys2Proof.Machine

/-- Memory: the bytes that differ from the reset contents, by strictly rising address (20_memory.md R50;
log 24). -/
abbrev Memory := List Host.Cell

/-- The framebuffer: rows from the top, each of 64 pixels from the left, `true` meaning lit (10_state.md R35;
log 20). -/
abbrev Framebuffer := List (Vector Bool 64)

/-- Why the engine is halted (60_exceptions.md R252). -/
inductive HaltReason where
  /-- CALL with 16 return addresses pending (60_exceptions.md R253) -/
  | stackOverflow
  /-- RET with an empty stack (60_exceptions.md R254) -/
  | stackUnderflow
  /-- the host's stop request (60_exceptions.md R255) -/
  | stopRequested
  /-- a store below 0x200 under policy `fault` (60_exceptions.md R256) -/
  | reservedWrite
  deriving DecidableEq, Repr

/-- The state of the execution engine (10_state.md R34). -/
inductive RunState where
  | running
  /-- entered by Fx0A; `x` is the register the key goes to -/
  | waitingForKey (x : Nibble)
  | halted (r : HaltReason)
  deriving DecidableEq, Repr

/-- The machine's lifecycle (70_reset_and_hazards.md R283, R285, R286; log 4). -/
inductive Phase where
  /-- created, no program loaded yet -/
  | created
  /-- the last `load_program` answered `CapacityError`; the machine is not started and a load may be retried -/
  | loadRejected
  /-- the last `load_program` answered `Ok` -/
  | loaded
  /-- the engine and the timer are enabled -/
  | started
  deriving DecidableEq, Repr

/-- An event of the host-visible log (10_state.md R37, 60_exceptions.md R258): fetch address and word. -/
inductive Event where
  | unknownOpcode (a : Addr) (w : Word)
  deriving DecidableEq, Repr

/-- One agent's turn to step (00_scope.md R17, 60_exceptions.md R266; log 2). -/
inductive Turn where
  /-- the instruction engine (40_execution_cycle.md R100) -/
  | engine
  /-- the timer (44_timers_io.md R222) -/
  | tick
  /-- the host reports that key `k` became pressed (44_timers_io.md R219) -/
  | keyPress (k : Nibble)
  /-- the host's stop request (60_exceptions.md R255) -/
  | stop
  /-- the host calls `load_program` (70_reset_and_hazards.md R284) -/
  | load (bytes : List Byte)
  /-- the host starts the machine (70_reset_and_hazards.md R285) -/
  | start
  deriving DecidableEq, Repr

/-- The state. The first eleven fields after `cfg` are the record of 10_state.md R20; the rest is the
lifecycle and the environment's own (INVENTORY.md, State). -/
structure State where
  /-- the parameters of 00_scope.md R9, which no step changes (log 1) -/
  cfg     : Config
  /-- V0..VF (10_state.md R21) -/
  v       : Vector Byte 16
  /-- the address register I (10_state.md R24) -/
  i       : Word
  /-- the program counter (10_state.md R26) -/
  pc      : Word
  /-- SP, the number of pending return addresses (10_state.md R28) -/
  sp      : Fin 17
  /-- the return addresses (10_state.md R28) -/
  stack   : Vector Word 16
  /-- the delay timer (10_state.md R30) -/
  dt      : Byte
  /-- the sound timer (10_state.md R31) -/
  st      : Byte
  /-- the memory M (20_memory.md R50) -/
  mem     : Memory
  /-- the engine's state (10_state.md R34) -/
  run     : RunState
  /-- the framebuffer (10_state.md R35) -/
  fb      : Framebuffer
  /-- the host-visible log, oldest event first (10_state.md R37) -/
  log     : List Event
  /-- where the machine is in its lifecycle (70_reset_and_hazards.md R283; log 4) -/
  phase   : Phase
  /-- the turns to come; when it is empty the engine moves (log 2) -/
  agenda  : List Turn
  /-- the answers of the random source to come; when it is empty, a free value (log 3) -/
  randoms : List Byte
  /-- for each key poll to come the keys that are down; when it is empty, a free value (log 3) -/
  keypads : List (List Nibble)
  /-- how many draws were taken, which keeps free values fresh (log 3) -/
  draws   : Nat
  deriving DecidableEq, Repr

/-- Why a step has no next state. -/
inductive Fault where
  /-- Raised by the step alone, when it is the engine's turn and `run = Halted(r)`: "`Halted` is terminal; no
  further cycles execute" (10_state.md R34), and the reason is reported (60_exceptions.md R266). Safe: the
  spec gives no next state there (log 5). -/
  | halted (r : HaltReason)
  deriving DecidableEq, Repr

/-- What the model says nothing about. -/
inductive Refusal where
  /-- Raised by `exec` for an instruction that has no meaning yet; no arm does so. Safe. -/
  | notModelled (mnemonic : String)
  /-- Raised by the host's turn `load` after a successful load: the host's duty is to "call it once, before
  start" (60_exceptions.md R266), and host behaviour outside the ports is unsaid
  (93_implementation_defined.md section 1, `refuse`). Safe (log 7). -/
  | loadOutsideContract
  /-- Raised by the host's turn `start` when no load has succeeded or the machine runs already: start comes
  "after a successful load" (60_exceptions.md R266). Safe (log 7). -/
  | startOutsideContract
  deriving DecidableEq, Repr

/-- All pixels 0, `height` rows (10_state.md R35, R39). -/
def Framebuffer.blank (height : Nat) : Framebuffer := List.replicate height (Vector.replicate 64 false)

/-- Machine creation (70_reset_and_hazards.md R280, R282; 10_state.md R39): every register, SP, every stack
slot and both timers 0, pc at `PROGRAM_START`, memory zero but for the font, the screen blank, the log empty,
and no step taken before start. -/
def State.create (cfg : Config) : State where
  cfg     := cfg
  v       := Vector.replicate 16 0
  i       := 0
  pc      := BitVec.ofNat 16 cfg.programStart.addr
  sp      := 0
  stack   := Vector.replicate 16 0
  dt      := 0
  st      := 0
  mem     := []
  run     := .running
  fb      := Framebuffer.blank cfg.displayHeight
  log     := []
  phase   := .created
  agenda  := []
  randoms := []
  keypads := []
  draws   := 0

/-- The machine right after reset, which is creation (70_reset_and_hazards.md R280), with the parameter
values of the spec's examples (DESIGN CHOICE, log 1). -/
def State.reset : State := State.create Config.standard

end Sys2Proof.Machine
end

