-- ==== Sys2Proof/Machine/Ops.lean ====
section
/-! DEFINITION. The named operations over memory, registers, stack, framebuffer and run state
(00_scope.md R11). Every meaning is written with these. -/

namespace Sys2Proof.Machine

/-- `Mask12(a) = a mod 0x1000`, as the 16-bit value a register holds (20_memory.md R51, 10_state.md R24, R26;
log 9). -/
def mask12 (a : Nat) : Word := BitVec.ofNat 16 (a % 0x1000)

/-! ## Memory -/

/-- What a byte reads as that nothing has written since creation: `FONT_DATA` at `FONT_BASE`, else 0
(10_state.md R39, 70_reset_and_hazards.md R282). -/
def resetByte (cfg : Config) (a : Nat) : Byte :=
  if cfg.fontBase ≤ a ∧ a < cfg.fontBase + fontBytes then cfg.fontData.getD (a - cfg.fontBase) 0 else 0

/-- The listed byte at an address. -/
def Memory.find (a : Nat) : Memory → Option Byte
  | [] => none
  | (k, b) :: m => if k = a then some b else Memory.find a m

/-- Lists a byte at its place in the rising order, replacing one that is there. -/
def Memory.insert (a : Nat) (b : Byte) : Memory → Memory
  | [] => [(a, b)]
  | (k, c) :: m =>
    if a < k then (a, b) :: (k, c) :: m
    else if a = k then (a, b) :: m
    else (k, c) :: Memory.insert a b m

/-- Takes the entry of an address off the list. -/
def Memory.erase (a : Nat) : Memory → Memory
  | [] => []
  | (k, c) :: m => if k = a then m else (k, c) :: Memory.erase a m

/-- The byte at an address of 0x000-0xFFF. -/
def Memory.read (cfg : Config) (m : Memory) (a : Nat) : Byte :=
  match Memory.find a m with
  | some b => b
  | none => resetByte cfg a

/-- Writes a byte, keeping the canonical form: a byte equal to the reset contents is not listed. -/
def Memory.write (cfg : Config) (m : Memory) (a : Nat) (b : Byte) : Memory :=
  if b = resetByte cfg a then Memory.erase a m else Memory.insert a b m

/-- The addresses rise strictly from `lo` on, each below 4096 and with a byte other than the reset contents. -/
def Memory.wfFrom (cfg : Config) (lo : Nat) : Memory → Bool
  | [] => true
  | (k, b) :: m =>
    decide (lo ≤ k) && decide (k < memSize) && decide (b ≠ resetByte cfg k) && Memory.wfFrom cfg (k + 1) m

/-- The canonical form of a memory. -/
def Memory.wf (cfg : Config) (m : Memory) : Bool := Memory.wfFrom cfg 0 m

/-- Writes bytes at successive addresses from `base`, each masked as it is formed (20_memory.md R59). -/
def Memory.writeBytes (cfg : Config) (m : Memory) (base : Nat) : List Byte → Memory
  | [] => m
  | b :: bs => Memory.writeBytes cfg (Memory.write cfg m (mask12 base).toNat b) (base + 1) bs

/-- `MemRead(a, 1)` (20_memory.md R53). -/
def State.readByte (s : State) (a : Nat) : Byte := Memory.read s.cfg s.mem (mask12 a).toNat

/-- The bytes at `n` successive addresses from `base` (20_memory.md R59). -/
def State.readBytes (s : State) (base n : Nat) : List Byte :=
  (List.range n).map fun k => s.readByte (base + k)

/-- Whether one of `n` successive addresses from `base` is in 0x000-0x1FF (20_memory.md R60). -/
def touchesReserved (base n : Nat) : Bool :=
  (List.range n).any fun k => decide ((mask12 (base + k)).toNat < reservedEnd)

/-! ## Registers -/

/-- `V[x]` (10_state.md R21). -/
def State.getV (s : State) (x : Nibble) : Byte := s.v.get x.toFin

/-- `V[x] <- b` (10_state.md R21). -/
def State.setV (s : State) (x : Nibble) (b : Byte) : State :=
  { s with v := s.v.set x.toNat b x.isLt }

/-- `I <- Mask12(a)` (10_state.md R24). -/
def State.setI (s : State) (a : Nat) : State := { s with i := mask12 a }

/-- `pc <- Mask12(a)` (10_state.md R26; log 9). -/
def State.setPc (s : State) (a : Nat) : State := { s with pc := mask12 a }

/-- Skips one more word: `pc <- pc + 2` on the advanced pc (41_control_flow.md R123). -/
def State.skipIf (s : State) (c : Bool) : State := if c then s.setPc (s.pc.toNat + 2) else s

/-- Loads V0, V1, ... with the bytes of a list, from register `k` on (43_index_memory.md R187). -/
def State.loadRegs (s : State) (k : Nat) : List Byte → State
  | [] => s
  | b :: bs => State.loadRegs (s.setV (BitVec.ofNat 4 k) b) (k + 1) bs

/-- The values of V0..Vx (43_index_memory.md R186). -/
def State.regsUpTo (s : State) (x : Nibble) : List Byte :=
  (List.range (x.toNat + 1)).map fun k => s.getV (BitVec.ofNat 4 k)

/-! ## Halting and the log -/

/-- `raise Halt(r)`, taken before any write of the instruction: pc keeps its advance and every other field
its value (60_exceptions.md R251). It is the machine's one exception entry, and nothing returns from it
(60_exceptions.md R263, R264). -/
def State.halt (s : State) (r : HaltReason) : State := { s with run := .halted r }

/-- `Log(e)` (60_exceptions.md R258). -/
def State.logEvent (s : State) (e : Event) : State := { s with log := s.log ++ [e] }

/-- The address the executing instruction was fetched from, `Mask12(pc - 2)` of the advanced pc
(60_exceptions.md R252, 40_execution_cycle.md R103). -/
def State.fetchAddr (s : State) : Addr := BitVec.ofNat 12 (s.pc.toNat + 0xFFE)

/-! ## Stack -/

/-- `Push(a)` then the jump of a CALL: it halts when 16 return addresses are pending (10_state.md R29,
41_control_flow.md R122). -/
def State.pushAndJump (s : State) (target : Nat) : State :=
  if h : s.sp.val < 16 then
    { s with stack := s.stack.set s.sp.val s.pc h, sp := ⟨s.sp.val + 1, by omega⟩, pc := mask12 target }
  else s.halt .stackOverflow

/-- `pc <- Pop()`: it halts when the stack is empty (10_state.md R29, 41_control_flow.md R120). -/
def State.popAndJump (s : State) : State :=
  if h : 0 < s.sp.val then
    { s with sp := ⟨s.sp.val - 1, by omega⟩, pc := mask12 (s.stack[s.sp.val - 1]'(by omega)).toNat }
  else s.halt .stackUnderflow

/-! ## Stores -/

/-- Stores bytes at successive addresses from `base`, or halts before the first one when a reserved address
is among them and the policy is `fault` (20_memory.md R60, 60_exceptions.md R256; log 14). -/
def State.store (s : State) (base : Nat) (bytes : List Byte) : State :=
  match s.cfg.reservedWrites, touchesReserved base bytes.length with
  | .fault, true => s.halt .reservedWrite
  | _, _ => { s with mem := Memory.writeBytes s.cfg s.mem base bytes }

/-! ## Framebuffer -/

/-- `fb[row][col]`. -/
def Framebuffer.pixel (fb : Framebuffer) (row : Nat) (col : Fin 64) : Bool :=
  match fb[row]? with
  | some line => line.get col
  | none => false

/-- `fb[row][col] <- fb[row][col] ^ 1`. -/
def Framebuffer.flip (fb : Framebuffer) (row : Nat) (col : Fin 64) : Framebuffer :=
  fb.modify row fun line => line.set col.val (!line.get col) col.isLt

/-- The column of pixel `c` of a sprite at `px`: `(px + c) mod 64` (44_timers_io.md R212). -/
def spriteCol (px c : Nat) : Fin 64 := ⟨(px + c) % displayWidth, Nat.mod_lt _ (by decide)⟩

/-- The row of line `r` of a sprite at `py`: `(py + r) mod DISPLAY_HEIGHT` (44_timers_io.md R212). -/
def spriteRow (height py r : Nat) : Nat := (py + r) % height

/-- One pixel of the blit: a set sprite bit flips the pixel, and flipping a lit one is a collision
(44_timers_io.md R212). -/
def blitPixel (bit : Bool) (row : Nat) (col : Fin 64) (acc : Framebuffer × Bool) : Framebuffer × Bool :=
  if bit then (acc.1.flip row col, acc.2 || acc.1.pixel row col) else acc

/-- One sprite byte, bit 7 leftmost (44_timers_io.md R212, R213). -/
def blitLine (px row : Nat) (b : Byte) (acc : Framebuffer × Bool) : Framebuffer × Bool :=
  (List.range 8).foldl (fun acc c => blitPixel (b.getLsbD (7 - c)) row (spriteCol px c) acc) acc

/-- The lines of a sprite from line `r` on, in the order of the pseudocode's loop (44_timers_io.md R212). -/
def blitLines (height px py : Nat) (r : Nat) : List Byte → Framebuffer × Bool → Framebuffer × Bool
  | [], acc => acc
  | b :: bs, acc => blitLines height px py (r + 1) bs (blitLine px (spriteRow height py r) b acc)

/-- The XOR-blit of a sprite: the new pixels, and whether a lit pixel was hit (44_timers_io.md R212). -/
def blit (height px py : Nat) (sprite : List Byte) (fb : Framebuffer) : Framebuffer × Bool :=
  blitLines height px py 0 sprite (fb, false)

/-! ## Draws -/

/-- `RandomByte()`: the source's next answer, or a free value (42_alu.md R163; log 3). -/
def State.randomByte (s : State) : Byte :=
  match s.randoms with
  | b :: _ => b
  | [] => Config.randomByte s.draws

/-- A draw of a random byte is taken. -/
def State.takeRandom (s : State) : State := { s with randoms := s.randoms.tail, draws := s.draws + 1 }

/-- `KeyDown(k)`: the keypad's answer to the next poll, or a free value (44_timers_io.md R214; log 3). -/
def State.keyDown (s : State) (k : Nibble) : Bool :=
  match s.keypads with
  | down :: _ => down.contains k
  | [] => Config.keyDown s.draws k

/-- A poll of the keypad is taken. -/
def State.takePoll (s : State) : State := { s with keypads := s.keypads.tail, draws := s.draws + 1 }

/-! ## Fetch -/

/-- The opcode word at pc: two byte reads, high byte first (40_execution_cycle.md R101, 20_memory.md R55, R56). -/
def State.fetchWord (s : State) : Word := s.readByte s.pc.toNat ++ s.readByte (s.pc.toNat + 1)

/-- The advance before execution, `pc <- Mask12(a + 2)` (40_execution_cycle.md R103). -/
def State.advance (s : State) : State := s.setPc (s.pc.toNat + 2)

end Sys2Proof.Machine
end

