-- ==== Sys2Proof/Machine/Agents.lean ====
section
/-! DEFINITION. The steps of the timer and of the host, and the outputs the host reads (44_timers_io.md R219,
R222, R223; 60_exceptions.md R255, R266; 70_reset_and_hazards.md R283 to R286). -/

namespace Sys2Proof.Machine

/-- The machine was started and is not halted: the timer ticks and host events are taken (44_timers_io.md R222,
60_exceptions.md R255; before start none is, 70_reset_and_hazards.md R283; log 8). -/
def State.live (s : State) : Bool :=
  match s.phase, s.run with
  | .started, .running => true
  | .started, .waitingForKey _ => true
  | _, _ => false

/-- One tick of a timer: down by 1, stopping at 0 (10_state.md R30). -/
def countDown (t : Byte) : Byte := if t = 0 then 0 else t - 1

/-- `TimerTick()` (44_timers_io.md R222). -/
def State.timerTick (s : State) : State :=
  if s.live then { s with dt := countDown s.dt, st := countDown s.st } else s

/-- `KeyPress(k)`: ends a wait, and is not remembered otherwise (44_timers_io.md R219; log 17). -/
def State.keyPress (s : State) (k : Nibble) : State :=
  match s.live, s.run with
  | true, .waitingForKey x => { s.setV x (k.setWidth 8) with run := .running }
  | _, _ => s

/-- The stop request (60_exceptions.md R255). -/
def State.stopRequest (s : State) : State := if s.live then s.halt .stopRequested else s

/-! ## Load and start -/

/-- What `load_program` answers its caller (70_reset_and_hazards.md R284). -/
inductive LoadAnswer where
  | ok
  | capacityError
  deriving DecidableEq, Repr

/-- `load(bytes, start_addr)`: fails when the bytes do not fit, and then writes none (20_memory.md R62). -/
def Memory.load (cfg : Config) (m : Memory) (bytes : List Byte) (start : Nat) : Option Memory :=
  if bytes.length > memSize - start then none else some (Memory.writeBytes cfg m start bytes)

/-- `load_program(bytes)` with its answer (70_reset_and_hazards.md R284, R286; 60_exceptions.md R259). -/
def State.loadProgram (s : State) (bytes : List Byte) : State × LoadAnswer :=
  match Memory.load s.cfg s.mem bytes s.cfg.programStart.addr with
  | some m => ({ s with mem := m, phase := .loaded }, .ok)
  | none => ({ s with phase := .loadRejected }, .capacityError)

/-- The host's call of `load_program`: before start, once, and again after a capacity error
(60_exceptions.md R266, 70_reset_and_hazards.md R286; log 7). -/
def hostLoad (bytes : List Byte) (s : State) : Host.Outcome State Fault Refusal :=
  match s.phase with
  | .created | .loadRejected => .next (s.loadProgram bytes).1
  | .loaded | .started => .refused .loadOutsideContract

/-- The host's start, after a successful load: `run <- Running` (70_reset_and_hazards.md R285; log 7). -/
def hostStart (s : State) : Host.Outcome State Fault Refusal :=
  match s.phase with
  | .loaded => .next { s with phase := .started, run := .running }
  | .created | .loadRejected | .started => .refused .startOutsideContract

/-! ## Outputs -/

/-- The tone output, `ST > 0`; ST itself is exposed too (44_timers_io.md R223; log 27). -/
def State.tone (s : State) : Bool := decide (0 < s.st.toNat)

/-- The codes of the halt reasons (60_exceptions.md R252; log 27). -/
def HaltReason.code : HaltReason → Nat
  | .stackOverflow => 1
  | .stackUnderflow => 2
  | .stopRequested => 3
  | .reservedWrite => 4

/-- The halt report, once halted (60_exceptions.md R266). -/
def State.haltReport (s : State) : Option HaltReason :=
  match s.run with
  | .halted r => some r
  | .running => none
  | .waitingForKey _ => none

end Sys2Proof.Machine
end

