-- ==== Sys2Proof/Machine/Flags.lean ====
section
/-! DEFINITION. The flag computations and the flag write (10_state.md R33, 42_alu.md R150). The only flag is
VF. -/

namespace Sys2Proof.Machine

/-- The register that doubles as the flag, VF (10_state.md R22). -/
abbrev flagReg : Nibble := 0xF

/-- A flag as the byte VF holds, 1 or 0. -/
def flagByte (f : Bool) : Byte := if f then 1 else 0

/-- Carry of an addition: the true sum exceeds 255 (42_alu.md R150, R157). -/
def carryOf (a b : Byte) : Bool := decide (a.toNat + b.toNat > 255)

/-- NOT borrow of `a - b`: the minuend is not less than the subtrahend (42_alu.md R150, R158). -/
def noBorrowOf (a b : Byte) : Bool := decide (a.toNat ≥ b.toNat)

/-- The bit a right shift moves out, bit 0 (42_alu.md R159). -/
def shiftedOutRight (a : Byte) : Bool := a.getLsbD 0

/-- The bit a left shift moves out, bit 7 (42_alu.md R161). -/
def shiftedOutLeft (a : Byte) : Bool := a.getLsbD 7

/-- Writes the flag to VF. -/
def State.setFlag (s : State) (f : Bool) : State := s.setV flagReg (flagByte f)

/-- The writes of a flag instruction in the table's order: VF first, then Vx, so that with `x = F` the result
stands (40_execution_cycle.md R105, 42_alu.md R162; log 11). -/
def State.setFlagThenV (s : State) (f : Bool) (x : Nibble) (r : Byte) : State := (s.setFlag f).setV x r

end Sys2Proof.Machine
end

