-- ==== Sys2Proof/Machine/Alu.lean ====
section
/-! DEFINITION. Loads of constants, arithmetic, logic, shifts and the random byte (42_alu.md). Operands are
read before any write (40_execution_cycle.md R105). -/

namespace Sys2Proof.Machine

/-- `LD Vx, kk` (42_alu.md R151). -/
def execLdVxKk (x : Nibble) (kk : Byte) (s : State) : Host.Outcome State Fault Refusal := .next (s.setV x kk)

/-- `ADD Vx, kk`: wrapping, no flag (42_alu.md R152). -/
def execAddVxKk (x : Nibble) (kk : Byte) (s : State) : Host.Outcome State Fault Refusal :=
  .next (s.setV x (s.getV x + kk))

/-- `LD Vx, Vy` (42_alu.md R153). -/
def execLdVxVy (x y : Nibble) (s : State) : Host.Outcome State Fault Refusal := .next (s.setV x (s.getV y))

/-- `OR Vx, Vy` (42_alu.md R154). -/
def execOr (x y : Nibble) (s : State) : Host.Outcome State Fault Refusal :=
  .next (s.setV x (s.getV x ||| s.getV y))

/-- `AND Vx, Vy` (42_alu.md R155). -/
def execAnd (x y : Nibble) (s : State) : Host.Outcome State Fault Refusal :=
  .next (s.setV x (s.getV x &&& s.getV y))

/-- `XOR Vx, Vy` (42_alu.md R156). -/
def execXor (x y : Nibble) (s : State) : Host.Outcome State Fault Refusal :=
  .next (s.setV x (s.getV x ^^^ s.getV y))

/-- `ADD Vx, Vy`: VF is the carry (42_alu.md R157). -/
def execAddVxVy (x y : Nibble) (s : State) : Host.Outcome State Fault Refusal :=
  .next (s.setFlagThenV (carryOf (s.getV x) (s.getV y)) x (s.getV x + s.getV y))

/-- `SUB Vx, Vy`: VF is NOT borrow (42_alu.md R158). -/
def execSub (x y : Nibble) (s : State) : Host.Outcome State Fault Refusal :=
  .next (s.setFlagThenV (noBorrowOf (s.getV x) (s.getV y)) x (s.getV x - s.getV y))

/-- `SHR Vx`: VF is the bit shifted out; Vy plays no part (42_alu.md R159). -/
def execShr (x : Nibble) (s : State) : Host.Outcome State Fault Refusal :=
  .next (s.setFlagThenV (shiftedOutRight (s.getV x)) x (s.getV x >>> 1))

/-- `SUBN Vx, Vy`: VF is NOT borrow of `Vy - Vx` (42_alu.md R160). -/
def execSubn (x y : Nibble) (s : State) : Host.Outcome State Fault Refusal :=
  .next (s.setFlagThenV (noBorrowOf (s.getV y) (s.getV x)) x (s.getV y - s.getV x))

/-- `SHL Vx`: VF is the bit shifted out; Vy plays no part (42_alu.md R161). -/
def execShl (x : Nibble) (s : State) : Host.Outcome State Fault Refusal :=
  .next (s.setFlagThenV (shiftedOutLeft (s.getV x)) x (s.getV x <<< 1))

/-- `RND Vx, kk`: a draw masked by kk (42_alu.md R163). -/
def execRnd (x : Nibble) (kk : Byte) (s : State) : Host.Outcome State Fault Refusal :=
  .next (s.takeRandom.setV x (s.randomByte &&& kk))

end Sys2Proof.Machine
end

