-- ==== Sys2Proof/Machine/Control.lean ====
section
/-! DEFINITION. Control transfer (41_control_flow.md). Each meaning runs on the state after the advance of
40_execution_cycle.md R103. -/

namespace Sys2Proof.Machine

/-- `RET` (41_control_flow.md R120). -/
def execRet (s : State) : Host.Outcome State Fault Refusal := .next s.popAndJump

/-- `JP addr` (41_control_flow.md R121). -/
def execJp (addr : Addr) (s : State) : Host.Outcome State Fault Refusal := .next (s.setPc addr.toNat)

/-- `CALL addr` (41_control_flow.md R122). -/
def execCall (addr : Addr) (s : State) : Host.Outcome State Fault Refusal := .next (s.pushAndJump addr.toNat)

/-- `SE Vx, kk` (41_control_flow.md R123). -/
def execSeVxKk (x : Nibble) (kk : Byte) (s : State) : Host.Outcome State Fault Refusal :=
  .next (s.skipIf (decide (s.getV x = kk)))

/-- `SNE Vx, kk` (41_control_flow.md R124). -/
def execSneVxKk (x : Nibble) (kk : Byte) (s : State) : Host.Outcome State Fault Refusal :=
  .next (s.skipIf (decide (s.getV x ≠ kk)))

/-- `SE Vx, Vy` (41_control_flow.md R125). -/
def execSeVxVy (x y : Nibble) (s : State) : Host.Outcome State Fault Refusal :=
  .next (s.skipIf (decide (s.getV x = s.getV y)))

/-- `SNE Vx, Vy` (41_control_flow.md R126). -/
def execSneVxVy (x y : Nibble) (s : State) : Host.Outcome State Fault Refusal :=
  .next (s.skipIf (decide (s.getV x ≠ s.getV y)))

/-- `JP V0, addr`: the base is always V0 (41_control_flow.md R127). -/
def execJpV0Addr (addr : Addr) (s : State) : Host.Outcome State Fault Refusal :=
  .next (s.setPc (addr.toNat + (s.getV 0).toNat))

end Sys2Proof.Machine
end

