-- ==== Sys2Proof/Machine/Cycle.lean ====
section
/-! DEFINITION. SYS and the unknown words (40_execution_cycle.md R107, R108). Each meaning runs on the state
after the advance of R103. -/

namespace Sys2Proof.Machine

/-- `SYS addr`: no operation and no log event (40_execution_cycle.md R107). -/
def execSys (_addr : Addr) (s : State) : Host.Outcome State Fault Refusal := .next s

/-- `UNKNOWN(w)`: logs the fetch address and the word, and nothing else (40_execution_cycle.md R108). -/
def execUnknown (w : Word) (s : State) : Host.Outcome State Fault Refusal :=
  .next (s.logEvent (.unknownOpcode s.fetchAddr w))

end Sys2Proof.Machine
end

