-- ==== Sys2Proof/Machine/Operands.lean ====
section
/-! DEFINITION. The run-time operand forms: a register's nibble, the glyph address, the data addressing mode
and the decimal digits (30_encoding.md R72, 43_index_memory.md R184, R185, R188). The fields of a word are in
Decode. -/

namespace Sys2Proof.Machine

/-- `Nib(b) = b & 0xF` (30_encoding.md R72; log 16). -/
def nib (b : Byte) : Nibble := b.extractLsb' 0 4

/-- The address of the glyph of a digit, `FONT_BASE + 5 * d` (43_index_memory.md R182, R184; log 15). -/
def glyphAddr (cfg : Config) (d : Nibble) : Nat := cfg.fontBase + glyphBytes * d.toNat

/-- The first address of an access through I; byte `k` of it is at `Mask12(I + k)` (43_index_memory.md R188). -/
def State.indexBase (s : State) : Nat := s.i.toNat

/-- The decimal digits of a byte: hundreds, tens, ones (43_index_memory.md R185). -/
def bcdDigits (b : Byte) : List Byte :=
  [BitVec.ofNat 8 (b.toNat / 100), BitVec.ofNat 8 (b.toNat / 10 % 10), BitVec.ofNat 8 (b.toNat % 10)]

end Sys2Proof.Machine
end

