-- ==== Sys2Proof/Machine/DisplayTimers.lean ====
section
/-! DEFINITION. Display, keypad and timer instructions (44_timers_io.md). -/

namespace Sys2Proof.Machine

/-- `CLS` (44_timers_io.md R211). -/
def execCls (s : State) : Host.Outcome State Fault Refusal :=
  .next { s with fb := Framebuffer.blank s.cfg.displayHeight }

/-- `DRW Vx, Vy, n`: the XOR-blit of the n bytes at I, then VF is the collision (44_timers_io.md R212). -/
def execDrw (x y n : Nibble) (s : State) : Host.Outcome State Fault Refusal :=
  let drawn := blit s.cfg.displayHeight (s.getV x).toNat (s.getV y).toNat (s.readBytes s.indexBase n.toNat) s.fb
  .next ({ s with fb := drawn.1 }.setFlag drawn.2)

/-- `SKP Vx` (44_timers_io.md R215). -/
def execSkp (x : Nibble) (s : State) : Host.Outcome State Fault Refusal :=
  .next (s.takePoll.skipIf (s.keyDown (nib (s.getV x))))

/-- `SKNP Vx` (44_timers_io.md R216). -/
def execSknp (x : Nibble) (s : State) : Host.Outcome State Fault Refusal :=
  .next (s.takePoll.skipIf (!s.keyDown (nib (s.getV x))))

/-- `LD Vx, DT` (44_timers_io.md R217). -/
def execLdVxDt (x : Nibble) (s : State) : Host.Outcome State Fault Refusal := .next (s.setV x s.dt)

/-- `LD Vx, K`: the engine waits for a key press; pc is not changed again (44_timers_io.md R218; log 17). -/
def execLdVxK (x : Nibble) (s : State) : Host.Outcome State Fault Refusal :=
  .next { s with run := .waitingForKey x }

/-- `LD DT, Vx` (44_timers_io.md R220). -/
def execLdDtVx (x : Nibble) (s : State) : Host.Outcome State Fault Refusal := .next { s with dt := s.getV x }

/-- `LD ST, Vx` (44_timers_io.md R221). -/
def execLdStVx (x : Nibble) (s : State) : Host.Outcome State Fault Refusal := .next { s with st := s.getV x }

end Sys2Proof.Machine
end

