-- ==== Sys2Proof/Machine/IndexMemory.lean ====
section
/-! DEFINITION. The index register, the font and the transfers through I (43_index_memory.md). -/

namespace Sys2Proof.Machine

/-- `LD I, addr` (43_index_memory.md R180). -/
def execLdIAddr (addr : Addr) (s : State) : Host.Outcome State Fault Refusal := .next (s.setI addr.toNat)

/-- `ADD I, Vx`: no flag (43_index_memory.md R181). -/
def execAddIVx (x : Nibble) (s : State) : Host.Outcome State Fault Refusal :=
  .next (s.setI (s.i.toNat + (s.getV x).toNat))

/-- `LD F, Vx` (43_index_memory.md R184). -/
def execLdFVx (x : Nibble) (s : State) : Host.Outcome State Fault Refusal :=
  .next (s.setI (glyphAddr s.cfg (nib (s.getV x))))

/-- `LD B, Vx` (43_index_memory.md R185). -/
def execLdBVx (x : Nibble) (s : State) : Host.Outcome State Fault Refusal :=
  .next (s.store s.indexBase (bcdDigits (s.getV x)))

/-- `LD [I], Vx`: I does not change (43_index_memory.md R186; log 12). -/
def execLdIVx (x : Nibble) (s : State) : Host.Outcome State Fault Refusal :=
  .next (s.store s.indexBase (s.regsUpTo x))

/-- `LD Vx, [I]`: I does not change (43_index_memory.md R187; log 12). -/
def execLdVxI (x : Nibble) (s : State) : Host.Outcome State Fault Refusal :=
  .next (s.loadRegs 0 (s.readBytes s.indexBase (x.toNat + 1)))

end Sys2Proof.Machine
end

