-- ==== Sys2Proof/Machine/Step.lean ====
section
/-! DEFINITION. One step of the machine: the turn of one agent (00_scope.md R17, 40_execution_cycle.md R100,
R109, R110). -/

namespace Sys2Proof.Machine

/-- `InstructionStep`: fetch, decode, advance, execute (40_execution_cycle.md R100). -/
def instructionStep (s : State) : Host.Outcome State Fault Refusal :=
  exec (decode s.fetchWord) s.advance

/-- The engine's turn. It has a step only in a started machine in `Running`; before start and in a wait nothing
changes (log 6, log 8), and a halted machine has no further step (40_execution_cycle.md R109; log 5). -/
def engineTurn (s : State) : Host.Outcome State Fault Refusal :=
  match s.phase with
  | .created | .loadRejected | .loaded => .next s
  | .started =>
    match s.run with
    | .running => instructionStep s
    | .waitingForKey _ => .next s
    | .halted r => .fault (.halted r)

/-- The turn of the agent that the agenda names (log 2). -/
def takeTurn (t : Turn) (s : State) : Host.Outcome State Fault Refusal :=
  match t with
  | .engine => engineTurn s
  | .tick => .next s.timerTick
  | .keyPress k => .next (s.keyPress k)
  | .stop => .next s.stopRequest
  | .load bytes => hostLoad bytes s
  | .start => hostStart s

/-- One step: the first turn of the agenda, which is taken off it, or the engine's when it is empty
(log 2). -/
def step (s : State) : Host.Outcome State Fault Refusal :=
  match s.agenda with
  | [] => engineTurn s
  | t :: rest => takeTurn t { s with agenda := rest }

/-- The state with the word of an opcode-table row at pc, high byte first, in a started and running machine
whose engine moves next, so that the very next step runs it (log 4). -/
def State.withFetchWord (s : State) (nbits w : Nat) : State :=
  { s with
    mem    := Memory.writeBytes s.cfg s.mem s.pc.toNat
                [highByte (tableWord nbits w), lowByte (tableWord nbits w)]
    phase  := .started
    run    := .running
    agenda := .engine :: s.agenda }

end Sys2Proof.Machine
end

