-- ==== Sys2Proof/Safety.lean ====
section
/-! DEFINITION. The invariant of a state, the end of a run, and the words that claims are stated in. -/

namespace Sys2Proof.Machine

/-- What every state of a run meets: the parameters are legal (00_scope.md R9), I, pc and the stack slots are
below 0x1000 (10_state.md R24, R26, R28), memory is in its canonical form, and the framebuffer has
`DISPLAY_HEIGHT` rows (10_state.md R35). SP is at most 16 and each row has 64 pixels by their types. -/
structure State.Inv (s : State) : Prop where
  config  : s.cfg.wf
  index   : s.i.toNat < 0x1000
  counter : s.pc.toNat < 0x1000
  slots   : ∀ k : Fin 16, (s.stack.get k).toNat < 0x1000
  memory  : Memory.wf s.cfg s.mem = true
  screen  : s.fb.length = s.cfg.displayHeight

/-- The next step is the engine's: its turn is first in the agenda, or the agenda is empty (log 2). -/
def State.engineNext (s : State) : Prop := s.agenda = [] ∨ ∃ rest, s.agenda = .engine :: rest

/-- The state with the turn that a step takes taken off its agenda. -/
def State.turnTaken (s : State) : State := { s with agenda := s.agenda.tail }

/-- The machine was started and its engine runs. -/
def State.runs (s : State) : Prop := s.phase = .started ∧ s.run = .running

/-- Every byte of memory reads in `t` as in `s`. -/
def State.sameBytes (s t : State) : Prop := ∀ a, t.readByte a = s.readByte a

/-- Every byte of memory reads in `t` as in `s`, but for the `n` bytes from `base` (20_memory.md R59). -/
def State.sameBytesBut (base n : Nat) (s t : State) : Prop :=
  ∀ a, (∀ k < n, a % 0x1000 ≠ (base + k) % 0x1000) → t.readByte a = s.readByte a

/-- A store of `n` bytes from `base` meets the reserved region under policy `fault` (60_exceptions.md R256). -/
def State.storeHalts (s : State) (base n : Nat) : Prop :=
  s.cfg.reservedWrites = .fault ∧ ∃ k < n, (base + k) % 0x1000 < 0x200

/-- The end of a run: halted, or running at a jump to itself (70_reset_and_hazards.md R299; log 29). DESIGN CHOICE
(log 29): R299 does not say whether a run can end before start, when `run` has no meaning yet (R283). This
definition does not look at `phase`, so a machine not yet started whose pc is at such a jump meets it too, and a
claim about a run that has started says so (`State.runs`, or `phase`). -/
def State.ended (s : State) : Prop :=
  (∃ r, s.run = .halted r) ∨ (s.run = .running ∧ s.fetchWord.toNat = 0x1000 + s.pc.toNat)

/-! ## Who writes what, from the lists of the spec -/

/-- The general registers an instruction may write (10_state.md R23). The key of `LD Vx, K` is written by the
key press that ends the wait. -/
def writesReg (i : Instr) (z : Nibble) : Bool :=
  match i with
  | .ldVxKk x _ | .addVxKk x _ | .ldVxVy x _ | .or x _ | .and x _ | .xor x _ | .rnd x _ | .ldVxDt x => z == x
  | .addVxVy x _ | .sub x _ | .shr x | .subn x _ | .shl x => z == x || z == 0xF
  | .drw _ _ _ => z == 0xF
  | .ldVxI x => decide (z.toNat ≤ x.toNat)
  | _ => false

/-- The instructions that write I (10_state.md R25). -/
def writesIndex : Instr → Bool
  | .ldIAddr _ | .addIVx _ | .ldFVx _ => true
  | _ => false

/-- The instructions that write pc beyond the advance (10_state.md R27). -/
def writesPc : Instr → Bool
  | .jp _ | .call _ | .ret | .jpV0Addr _ | .seVxKk _ _ | .sneVxKk _ _ | .seVxVy _ _ | .sneVxVy _ _
  | .skp _ | .sknp _ => true
  | _ => false

/-- The instructions that reach SP and the stack (10_state.md R32). -/
def writesStack : Instr → Bool
  | .call _ | .ret => true
  | _ => false

/-- The instructions that write memory (20_memory.md R52). -/
def writesMemory : Instr → Bool
  | .ldBVx _ | .ldIVx _ => true
  | _ => false

/-- The instructions that write the framebuffer (10_state.md R35). -/
def writesScreen : Instr → Bool
  | .cls | .drw _ _ _ => true
  | _ => false

/-- The instructions that can change `run`: the wait and those that can halt (40_execution_cycle.md R106,
60_exceptions.md R252). -/
def writesRun : Instr → Bool
  | .ldVxK _ | .call _ | .ret | .ldBVx _ | .ldIVx _ => true
  | _ => false

/-! ## The XOR-blit in closed form (44_timers_io.md R212) -/

/-- Line `r` of the sprite that `DRW Vx, Vy, n` draws touches the pixel: the line falls on its row and a set bit
on its column. -/
def State.spriteHits (s : State) (x y : Nibble) (r row : Nat) (col : Fin 64) : Bool :=
  decide (row = ((s.getV y).toNat + r) % s.cfg.displayHeight) &&
    (List.range 8).any fun c =>
      decide (col.val = ((s.getV x).toNat + c) % 64) && (s.readByte (s.i.toNat + r)).getLsbD (7 - c)

/-- How many of the lines before line `r` touch the pixel. -/
def State.hitsBefore (s : State) (x y : Nibble) (r row : Nat) (col : Fin 64) : Nat :=
  ((List.range r).filter fun r' => s.spriteHits x y r' row col).length

end Sys2Proof.Machine
end

