-- ==== Sys2Proof/Certificates/Slice0/Obligations.lean ====
section
/-! DEFINITION. The statements for the provers. In each, `exec` runs on the state after the advance of
40_execution_cycle.md R103, and a state's `agenda` says whose step comes next (log 2). -/

open Sys2Proof Sys2Proof.Machine

/-! ## Creation, the step and the invariant -/

/-- The values of 10_state.md R39 for every choice of the parameters. That a byte outside the font is 0 and a
font byte is `FONT_DATA`, the blank screen and the empty log are the spec's own decisions D7 and D17; that no
step was taken yet is told by the model's `phase` (log 4). -/
def Obligations.CreationSetsEveryField : Prop :=
  ∀ cfg : Config,
    (∀ x, (State.create cfg).getV x = 0) ∧ (State.create cfg).i = 0 ∧
    (State.create cfg).pc.toNat = (match cfg.programStart with | .at200 => 0x200 | .at600 => 0x600) ∧
    (State.create cfg).sp = 0 ∧ (∀ k, (State.create cfg).stack.get k = 0) ∧
    (State.create cfg).dt = 0 ∧ (State.create cfg).st = 0 ∧
    (State.create cfg).fb.length = cfg.displayHeight ∧
    (∀ row col, (State.create cfg).fb.pixel row col = false) ∧
    (State.create cfg).log = [] ∧ (State.create cfg).phase = .created ∧
    (cfg.wf → ∀ a < 0x1000, (State.create cfg).readByte a =
      if h : cfg.fontBase ≤ a ∧ a - cfg.fontBase < cfg.fontData.length then cfg.fontData[a - cfg.fontBase]'h.2
      else 0)

/-- The created machine meets the invariant for every legal choice of the parameters (log 4, log 24), and so
does the reset state. -/
def Obligations.CreationMeetsInvariant : Prop :=
  (∀ cfg : Config, cfg.wf → (State.create cfg).Inv) ∧ State.reset.Inv

/-- Every step of every agent keeps the invariant: I, pc and the stack slots stay below 0x1000, memory stays
canonical, the screen keeps its rows and the parameters stay legal. -/
def Obligations.EveryStepKeepsInvariant : Prop := ∀ s t : State, s.Inv → step s = .next t → t.Inv

/-- One instruction step: the word at pc, high byte first, is decoded, pc is advanced by 2, and the decoded
instruction is executed (40_execution_cycle.md R100). The mask of the advanced pc is the spec's decision D1 (log
9), and the turn the step takes off the agenda is the model's own (log 2). -/
def Obligations.StepExecutesTheDecodedWord : Prop :=
  ∀ s : State, s.engineNext → s.runs →
    step s = exec (decode (s.readByte s.pc.toNat ++ s.readByte (s.pc.toNat + 1)))
      { s with pc := BitVec.ofNat 16 ((s.pc.toNat + 2) % 0x1000), agenda := s.agenda.tail }

/-- A word placed by `withFetchWord` is the one the next step runs; the lifecycle and the turn are the
model's (log 4). -/
def Obligations.PlacedWordIsExecuted : Prop :=
  ∀ (s : State) (w : Word), Memory.wf s.cfg s.mem = true →
    (s.withFetchWord 16 w.toNat).fetchWord = w ∧
    step (s.withFetchWord 16 w.toNat) =
      exec (decode w) { (s.withFetchWord 16 w.toNat).advance with agenda := s.agenda }

/-! ## Encoding -/

/-- Decoding the word of a well-formed instruction gives the instruction back, every operand at every value;
also from its two bytes in memory order. SHR and SHL encode y = 0 (decision D28, log 23). -/
def Obligations.DecodeOfEncodeIsIdentity : Prop :=
  ∀ i : Instr, i.wf = true → decode (encode i) = i ∧ ∀ rest, decodeBytes (encodeBytes i ++ rest) = .ok (i, rest)

/-- Every word decodes to a well-formed instruction, and encoding that gives the word back, but for the ignored
y field of 8xy6 and 8xyE, which encodes as 0 (decision D28, log 23). -/
def Obligations.EncodeOfDecodeRestoresTheWord : Prop :=
  ∀ w : Word, (decode w).wf = true ∧
    encode (decode w) = if w &&& 0xF00F = 0x8006 ∨ w &&& 0xF00F = 0x800E then w &&& 0xFF0F else w

/-- The words that decode to UNKNOWN are those of the table of 30_encoding.md R80, row by row. -/
def Obligations.UnknownWordsAreTheListed : Prop :=
  ∀ w : Word, (∃ u, decode w = .unknown u) ↔
    (w.toNat / 0x1000 = 5 ∧ w.toNat % 16 ≠ 0) ∨
    (w.toNat / 0x1000 = 8 ∧ w.toNat % 16 ∈ [0x8, 0x9, 0xA, 0xB, 0xC, 0xD, 0xF]) ∨
    (w.toNat / 0x1000 = 9 ∧ w.toNat % 16 ≠ 0) ∨
    (w.toNat / 0x1000 = 0xE ∧ w.toNat % 256 ∉ [0x9E, 0xA1]) ∨
    (w.toNat / 0x1000 = 0xF ∧ w.toNat % 256 ∉ [0x07, 0x0A, 0x15, 0x18, 0x1E, 0x29, 0x33, 0x55, 0x65])

/-- 00E0 and 00EE are CLS and RET, and every other 0nnn is SYS with its 12-bit field (30_encoding.md R75,
R81). -/
def Obligations.ZeroWordsAreClsRetOrSys : Prop :=
  ∀ addr : Addr, decode (0#4 ++ addr) =
    if addr = 0x0E0 then .cls else if addr = 0x0EE then .ret else .sys addr

/-- Words written out from the encodings of 30_encoding.md R74 decode to what they stand for. -/
def Obligations.WrittenWordsDecode : Prop :=
  decode 0b0000000011100000#16 = .cls ∧ decode 0b0010101111001101#16 = .call 0xBCD ∧
  decode 0b0011101001111111#16 = .seVxKk 0xA 0x7F ∧ decode 0b1000000100100101#16 = .sub 1 2 ∧
  decode 0b1101000100100101#16 = .drw 1 2 5 ∧ decode 0b1110001110011110#16 = .skp 3 ∧
  decode 0b1111001001100101#16 = .ldVxI 2 ∧ decode 0b0101000100100001#16 = .unknown 0x5121

/-! ## Control transfer -/

/-- `RET`: pops the return address, or halts with StackUnderflow when the stack is empty (41_control_flow.md
R120, 60_exceptions.md R254). Nothing but pc and SP, or `run`, changes. That the halting RET writes nothing else
and keeps the advanced pc is the spec's decision D10 (log 18), the mask of the popped pc is decision D1 (log 9),
and the popped slot that keeps its value is decision D20 (log 21). -/
def Obligations.RetPopsOrUnderflows : Prop :=
  ∀ s : State,
    (∀ h : 0 < s.sp.val, ∃ t, exec .ret s = .next t ∧ t.sp.val = s.sp.val - 1 ∧
      t.pc.toNat = (s.stack.get ⟨s.sp.val - 1, by omega⟩).toNat % 0x1000 ∧
      t = { s with pc := t.pc, sp := t.sp } ∧ s.sameBytes t) ∧
    (s.sp.val = 0 → exec .ret s = .next { s with run := .halted .stackUnderflow })

/-- `JP addr`: pc is the address (41_control_flow.md R121), and nothing else changes. -/
def Obligations.JpSetsPc : Prop :=
  ∀ (addr : Addr) (s : State), ∃ t, exec (.jp addr) s = .next t ∧ t.pc.toNat = addr.toNat ∧
    t = { s with pc := t.pc } ∧ s.sameBytes t

/-- `CALL addr`: pushes the advanced pc and jumps, or halts with StackOverflow when 16 return addresses are
pending (41_control_flow.md R122, 60_exceptions.md R253). That the halting CALL pushes nothing and keeps the
advanced pc is the spec's decision D10 (log 18), and the layout of SP and the slots is decision D20 (log 21). -/
def Obligations.CallPushesOrOverflows : Prop :=
  ∀ (addr : Addr) (s : State),
    (∀ h : s.sp.val < 16, ∃ t, exec (.call addr) s = .next t ∧ t.sp.val = s.sp.val + 1 ∧
      t.stack.get ⟨s.sp.val, h⟩ = s.pc ∧ (∀ k : Fin 16, k.val ≠ s.sp.val → t.stack.get k = s.stack.get k) ∧
      t.pc.toNat = addr.toNat ∧ t = { s with pc := t.pc, sp := t.sp, stack := t.stack } ∧ s.sameBytes t) ∧
    (s.sp.val = 16 → exec (.call addr) s = .next { s with run := .halted .stackOverflow })

/-- `SE Vx, kk` and `SNE Vx, kk`: pc moves 2 further exactly when the condition holds (41_control_flow.md R123,
R124), and nothing else changes. The mask of the skipped pc is the spec's decision D1 (10_state.md R26; log 9). -/
def Obligations.ByteSkipsMovePc : Prop :=
  ∀ (x : Nibble) (kk : Byte) (s : State),
    (∃ t, exec (.seVxKk x kk) s = .next t ∧
      t.pc.toNat = (if s.getV x = kk then (s.pc.toNat + 2) % 0x1000 else s.pc.toNat) ∧
      t = { s with pc := t.pc } ∧ s.sameBytes t) ∧
    (∃ t, exec (.sneVxKk x kk) s = .next t ∧
      t.pc.toNat = (if s.getV x = kk then s.pc.toNat else (s.pc.toNat + 2) % 0x1000) ∧
      t = { s with pc := t.pc } ∧ s.sameBytes t)

/-- `SE Vx, Vy` and `SNE Vx, Vy`: pc moves 2 further exactly when the condition holds (41_control_flow.md R125,
R126), and nothing else changes. The mask of the skipped pc is the spec's decision D1 (10_state.md R26; log 9). -/
def Obligations.RegisterSkipsMovePc : Prop :=
  ∀ (x y : Nibble) (s : State),
    (∃ t, exec (.seVxVy x y) s = .next t ∧
      t.pc.toNat = (if s.getV x = s.getV y then (s.pc.toNat + 2) % 0x1000 else s.pc.toNat) ∧
      t = { s with pc := t.pc } ∧ s.sameBytes t) ∧
    (∃ t, exec (.sneVxVy x y) s = .next t ∧
      t.pc.toNat = (if s.getV x = s.getV y then s.pc.toNat else (s.pc.toNat + 2) % 0x1000) ∧
      t = { s with pc := t.pc } ∧ s.sameBytes t)

/-- `JP V0, addr`: pc is the sum masked to 12 bits, the base being V0 whatever the field holds
(41_control_flow.md R127; the mask is decision D1, log 9). -/
def Obligations.JpV0AddsV0 : Prop :=
  ∀ (addr : Addr) (s : State), ∃ t, exec (.jpV0Addr addr) s = .next t ∧
    t.pc.toNat = (addr.toNat + (s.getV 0).toNat) % 0x1000 ∧ t = { s with pc := t.pc } ∧ s.sameBytes t

/-- A whole step of a skip leaves pc exactly 4 past the fetch address when the condition holds, else 2 past it
(10_state.md R27, 70_reset_and_hazards.md R290; masking is decision D1, log 9). -/
def Obligations.SkipStepsAdvanceByFourOrTwo : Prop :=
  ∀ (s t : State) (c : Bool), s.engineNext → s.runs →
    ((∃ x kk, decode s.fetchWord = .seVxKk x kk ∧ c = decide (s.getV x = kk)) ∨
     (∃ x kk, decode s.fetchWord = .sneVxKk x kk ∧ c = decide (s.getV x ≠ kk)) ∨
     (∃ x y, decode s.fetchWord = .seVxVy x y ∧ c = decide (s.getV x = s.getV y)) ∨
     (∃ x y, decode s.fetchWord = .sneVxVy x y ∧ c = decide (s.getV x ≠ s.getV y)) ∨
     (∃ x, decode s.fetchWord = .skp x ∧ c = s.keyDown (nib (s.getV x))) ∨
     (∃ x, decode s.fetchWord = .sknp x ∧ c = !s.keyDown (nib (s.getV x)))) →
    step s = .next t → t.pc.toNat = (s.pc.toNat + if c then 4 else 2) % 0x1000

/-- A CALL and the RET at its target: after both steps pc is the address after the CALL and SP is as before
(41_control_flow.md R120, R122; the mask of pc is decision D1, log 9). -/
def Obligations.CallThenRetComesBack : Prop :=
  ∀ (s : State) (addr : Addr), s.agenda = [] → s.runs → s.sp.val < 16 → decode s.fetchWord = .call addr →
    s.readByte addr.toNat = 0x00 → s.readByte (addr.toNat + 1) = 0xEE →
    ∃ t, Sys2Proof.core.run 2 s = .next t ∧ t.pc.toNat = (s.pc.toNat + 2) % 0x1000 ∧ t.sp = s.sp ∧
      t = { s with pc := t.pc, stack := t.stack } ∧ s.sameBytes t

/-- A CALL to its own address from an empty stack: 16 calls succeed and the 17th halts with StackOverflow, pc
past it (60_exceptions.md R253, R251; the kept advance is decision D10, log 18). -/
def Obligations.SeventeenthNestedCallHalts : Prop :=
  ∀ s : State, s.agenda = [] → s.runs → s.sp.val = 0 → s.pc.toNat < 0x1000 →
    s.fetchWord.toNat = 0x2000 + s.pc.toNat →
    (∃ t, Sys2Proof.core.run 16 s = .next t ∧ t.sp.val = 16 ∧ t.run = .running) ∧
    (∃ t, Sys2Proof.core.run 17 s = .next t ∧ t.sp.val = 16 ∧ t.run = .halted .stackOverflow ∧
      t.pc.toNat = (s.pc.toNat + 2) % 0x1000)

/-! ## ALU -/

/-- `LD Vx, kk` and `LD Vx, Vy` (42_alu.md R151, R153): Vx takes the value, and nothing else changes. -/
def Obligations.LoadsSetVx : Prop :=
  ∀ (x y : Nibble) (kk : Byte) (s : State),
    (∃ t, exec (.ldVxKk x kk) s = .next t ∧ t.getV x = kk ∧ (∀ z ≠ x, t.getV z = s.getV z) ∧
      t = { s with v := t.v } ∧ s.sameBytes t) ∧
    (∃ t, exec (.ldVxVy x y) s = .next t ∧ t.getV x = s.getV y ∧ (∀ z ≠ x, t.getV z = s.getV z) ∧
      t = { s with v := t.v } ∧ s.sameBytes t)

/-- `ADD Vx, kk`: wraps modulo 256 and writes no flag (42_alu.md R152). -/
def Obligations.AddByteWrapsWithoutFlag : Prop :=
  ∀ (x : Nibble) (kk : Byte) (s : State), ∃ t, exec (.addVxKk x kk) s = .next t ∧
    (t.getV x).toNat = ((s.getV x).toNat + kk.toNat) % 256 ∧ (∀ z ≠ x, t.getV z = s.getV z) ∧
    t = { s with v := t.v } ∧ s.sameBytes t

/-- `OR`, `AND`, `XOR`: bit by bit, and no flag (42_alu.md R154, R155, R156). -/
def Obligations.LogicWorksBitByBit : Prop :=
  ∀ (x y : Nibble) (s : State),
    (∃ t, exec (.or x y) s = .next t ∧
      (∀ b < 8, (t.getV x).getLsbD b = ((s.getV x).getLsbD b || (s.getV y).getLsbD b)) ∧
      (∀ z ≠ x, t.getV z = s.getV z) ∧ t = { s with v := t.v } ∧ s.sameBytes t) ∧
    (∃ t, exec (.and x y) s = .next t ∧
      (∀ b < 8, (t.getV x).getLsbD b = ((s.getV x).getLsbD b && (s.getV y).getLsbD b)) ∧
      (∀ z ≠ x, t.getV z = s.getV z) ∧ t = { s with v := t.v } ∧ s.sameBytes t) ∧
    (∃ t, exec (.xor x y) s = .next t ∧
      (∀ b < 8, (t.getV x).getLsbD b = ((s.getV x).getLsbD b != (s.getV y).getLsbD b)) ∧
      (∀ z ≠ x, t.getV z = s.getV z) ∧ t = { s with v := t.v } ∧ s.sameBytes t)

/-- `ADD Vx, Vy`: Vx is the sum modulo 256, and VF the carry unless VF is the destination (42_alu.md R157). -/
def Obligations.AddSetsCarry : Prop :=
  ∀ (x y : Nibble) (s : State), ∃ t, exec (.addVxVy x y) s = .next t ∧
    (t.getV x).toNat = ((s.getV x).toNat + (s.getV y).toNat) % 256 ∧
    (x ≠ 0xF → t.getV 0xF = if (s.getV x).toNat + (s.getV y).toNat > 255 then 1 else 0) ∧
    (∀ z, z ≠ x → z ≠ 0xF → t.getV z = s.getV z) ∧ t = { s with v := t.v } ∧ s.sameBytes t

/-- `SUB` and `SUBN`: the difference modulo 256, and VF the NOT borrow unless VF is the destination (42_alu.md
R158, R160). That the operands are read before VF is written is the spec's decision D3 (log 11). -/
def Obligations.SubtractionsSetNotBorrow : Prop :=
  ∀ (x y : Nibble) (s : State),
    (∃ t, exec (.sub x y) s = .next t ∧
      (t.getV x).toNat = ((s.getV x).toNat + 256 - (s.getV y).toNat) % 256 ∧
      (x ≠ 0xF → t.getV 0xF = if (s.getV x).toNat ≥ (s.getV y).toNat then 1 else 0) ∧
      (∀ z, z ≠ x → z ≠ 0xF → t.getV z = s.getV z) ∧ t = { s with v := t.v } ∧ s.sameBytes t) ∧
    (∃ t, exec (.subn x y) s = .next t ∧
      (t.getV x).toNat = ((s.getV y).toNat + 256 - (s.getV x).toNat) % 256 ∧
      (x ≠ 0xF → t.getV 0xF = if (s.getV y).toNat ≥ (s.getV x).toNat then 1 else 0) ∧
      (∀ z, z ≠ x → z ≠ 0xF → t.getV z = s.getV z) ∧ t = { s with v := t.v } ∧ s.sameBytes t)

/-- `SHR` and `SHL`: one bit, and VF the bit shifted out unless VF is the destination (42_alu.md R159, R161). That
Vx is read before VF is written, so that with x = F the result is the old VF shifted, is the spec's decision D3
(40_execution_cycle.md R105, 42_alu.md R162; log 11). -/
def Obligations.ShiftsSetTheBitShiftedOut : Prop :=
  ∀ (x : Nibble) (s : State),
    (∃ t, exec (.shr x) s = .next t ∧ (t.getV x).toNat = (s.getV x).toNat / 2 ∧
      (x ≠ 0xF → (t.getV 0xF).toNat = (s.getV x).toNat % 2) ∧
      (∀ z, z ≠ x → z ≠ 0xF → t.getV z = s.getV z) ∧ t = { s with v := t.v } ∧ s.sameBytes t) ∧
    (∃ t, exec (.shl x) s = .next t ∧ (t.getV x).toNat = (s.getV x).toNat * 2 % 256 ∧
      (x ≠ 0xF → (t.getV 0xF).toNat = (s.getV x).toNat / 128) ∧
      (∀ z, z ≠ x → z ≠ 0xF → t.getV z = s.getV z) ∧ t = { s with v := t.v } ∧ s.sameBytes t)

/-- `RND Vx, kk`: Vx is the drawn byte masked by kk, whatever the draw; the draw is the source's next answer
and is used up (42_alu.md R163, the spec's decision D15; the source's list is the model's, log 3). -/
def Obligations.RndMasksTheDraw : Prop :=
  ∀ (x : Nibble) (kk : Byte) (s : State), ∃ t, exec (.rnd x kk) s = .next t ∧
    t.getV x = s.randomByte &&& kk ∧ (∀ r rest, s.randoms = r :: rest → t.getV x = r &&& kk ∧ t.randoms = rest) ∧
    (∀ z ≠ x, t.getV z = s.getV z) ∧
    t = { s with v := t.v, randoms := s.randoms.tail, draws := s.draws + 1 } ∧ s.sameBytes t

/-! ## Index register and memory -/

/-- `LD I, addr` and `ADD I, Vx`: I is the field, or the sum masked to 12 bits; no flag (43_index_memory.md R180,
R181). -/
def Obligations.IndexIsSetAndAdded : Prop :=
  ∀ (addr : Addr) (x : Nibble) (s : State),
    (∃ t, exec (.ldIAddr addr) s = .next t ∧ t.i.toNat = addr.toNat ∧ t = { s with i := t.i } ∧ s.sameBytes t) ∧
    (∃ t, exec (.addIVx x) s = .next t ∧ t.i.toNat = (s.i.toNat + (s.getV x).toNat) % 0x1000 ∧
      t = { s with i := t.i } ∧ s.sameBytes t)

/-- `LD F, Vx`: I is the address of the glyph of Vx's low nibble, and with legal parameters lies below 0x200
(43_index_memory.md R184). The nibble is decision D8 (log 16), the stride 5 is from general knowledge (log
15). -/
def Obligations.LdFPointsAtTheGlyph : Prop :=
  ∀ (x : Nibble) (s : State), ∃ t, exec (.ldFVx x) s = .next t ∧
    t.i.toNat = (s.cfg.fontBase + 5 * ((s.getV x).toNat % 16)) % 0x1000 ∧
    (s.cfg.wf → t.i.toNat = s.cfg.fontBase + 5 * ((s.getV x).toNat % 16) ∧ t.i.toNat < 0x200) ∧
    t = { s with i := t.i } ∧ s.sameBytes t

/-- `LD B, Vx`: the hundreds, tens and ones of Vx stand at I, I+1, I+2, each masked to 12 bits, and no other
byte changes; under policy `fault` at a reserved address it halts with nothing written (43_index_memory.md
R185). The mask of I + k is the spec's decision D5 (log 13), the halt is decision D6 (log 14), and the pc that it
keeps is decision D10 (log 18). -/
def Obligations.LdBStoresTheDigits : Prop :=
  ∀ (x : Nibble) (s : State), Memory.wf s.cfg s.mem = true →
    (¬s.storeHalts s.i.toNat 3 → ∃ t, exec (.ldBVx x) s = .next t ∧
      (t.readByte s.i.toNat).toNat = (s.getV x).toNat / 100 ∧
      (t.readByte (s.i.toNat + 1)).toNat = (s.getV x).toNat / 10 % 10 ∧
      (t.readByte (s.i.toNat + 2)).toNat = (s.getV x).toNat % 10 ∧
      State.sameBytesBut s.i.toNat 3 s t ∧ t = { s with mem := t.mem }) ∧
    (s.storeHalts s.i.toNat 3 → exec (.ldBVx x) s = .next { s with run := .halted .reservedWrite })

/-- `LD [I], Vx`: byte k at I+k, masked to 12 bits, is Vk for each k up to x, no other byte changes and I does
not (43_index_memory.md R186; that I stays is decision D4, log 12, and the mask is decision D5, log 13); under
policy `fault` at a reserved address it halts with nothing written (decision D6, log 14) and the advanced pc
kept (decision D10, log 18). -/
def Obligations.LdIVxStoresTheRegisters : Prop :=
  ∀ (x : Nibble) (s : State), Memory.wf s.cfg s.mem = true →
    (¬s.storeHalts s.i.toNat (x.toNat + 1) → ∃ t, exec (.ldIVx x) s = .next t ∧
      (∀ k : Nibble, k.toNat ≤ x.toNat → t.readByte (s.i.toNat + k.toNat) = s.getV k) ∧
      State.sameBytesBut s.i.toNat (x.toNat + 1) s t ∧ t = { s with mem := t.mem }) ∧
    (s.storeHalts s.i.toNat (x.toNat + 1) → exec (.ldIVx x) s = .next { s with run := .halted .reservedWrite })

/-- `LD Vx, [I]`: Vk is the byte at I+k, masked to 12 bits, for each k up to x; every other register, I and
memory stay (43_index_memory.md R187; that I stays is decision D4, log 12, and the mask is decision D5, log
13). -/
def Obligations.LdVxILoadsTheRegisters : Prop :=
  ∀ (x : Nibble) (s : State), ∃ t, exec (.ldVxI x) s = .next t ∧
    (∀ k : Nibble, k.toNat ≤ x.toNat → t.getV k = s.readByte ((s.i.toNat + k.toNat) % 0x1000)) ∧
    (∀ k : Nibble, x.toNat < k.toNat → t.getV k = s.getV k) ∧ t = { s with v := t.v } ∧ s.sameBytes t

/-- What LD [I], Vx stored, LD Vx, [I] loads back: whatever happened to the registers in between, V0..Vx are
again what they were at the store (decisions D4 and D5, log 12, log 13). -/
def Obligations.StoredRegistersLoadBack : Prop :=
  ∀ (x : Nibble) (s t u : State) (v : Vector Byte 16), Memory.wf s.cfg s.mem = true →
    ¬s.storeHalts s.i.toNat (x.toNat + 1) → exec (.ldIVx x) s = .next t →
    exec (.ldVxI x) { t with v := v } = .next u → ∀ k : Nibble, k.toNat ≤ x.toNat → u.getV k = s.getV k

/-- A store over the next instruction is seen by the very next fetch: after `LD [I], Vx` with I at the next
address, the next step executes the word V0, V1 (20_memory.md R63, decision D22, log 26). -/
def Obligations.StoreIsSeenByTheNextFetch : Prop :=
  ∀ (s t : State) (x : Nibble), Memory.wf s.cfg s.mem = true → s.agenda = [] → s.runs →
    decode s.fetchWord = .ldIVx x → 1 ≤ x.toNat → s.i.toNat = (s.pc.toNat + 2) % 0x1000 →
    ¬s.storeHalts s.i.toNat (x.toNat + 1) → step s = .next t →
    step t = exec (decode (s.getV 0 ++ s.getV 1)) t.advance

/-! ## Display, keypad, timers -/

/-- `CLS`: every pixel is 0, and nothing else changes (44_timers_io.md R211). -/
def Obligations.ClsClearsTheScreen : Prop :=
  ∀ s : State, ∃ t, exec .cls s = .next t ∧ (∀ row col, t.fb.pixel row col = false) ∧
    t.fb.length = s.cfg.displayHeight ∧ t = { s with fb := t.fb } ∧ s.sameBytes t

/-- `DRW Vx, Vy, n` in closed form, for every n: a pixel is turned over once for each line that touches it, and
VF is 1 exactly when some line touches a pixel that the lines before it left lit (44_timers_io.md R212, the
spec's decision D14, log 20). Only the screen and VF change. -/
def Obligations.DrwTurnsTouchedPixelsOver : Prop :=
  ∀ (x y n : Nibble) (s : State), s.Inv → ∃ t, exec (.drw x y n) s = .next t ∧
    (∀ row < s.cfg.displayHeight, ∀ col, t.fb.pixel row col =
      (s.fb.pixel row col != decide (s.hitsBefore x y n.toNat row col % 2 = 1))) ∧
    (t.getV 0xF = 1 ∨ t.getV 0xF = 0) ∧
    (t.getV 0xF = 1 ↔ ∃ r < n.toNat, ∃ row < s.cfg.displayHeight, ∃ col, s.spriteHits x y r row col = true ∧
      (s.fb.pixel row col != decide (s.hitsBefore x y r row col % 2 = 1)) = true) ∧
    (∀ z ≠ 0xF, t.getV z = s.getV z) ∧ t = { s with fb := t.fb, v := t.v } ∧ s.sameBytes t

/-- A sprite no taller than the screen: VF is 1 exactly when some pixel went from 1 to 0 (44_timers_io.md R212,
the spec's decision D14, log 20). -/
def Obligations.DrwFlagTellsAnErasedPixel : Prop :=
  ∀ (x y n : Nibble) (s t : State), s.Inv → n.toNat ≤ s.cfg.displayHeight → exec (.drw x y n) s = .next t →
    (t.getV 0xF = 1 ↔ ∃ row < s.cfg.displayHeight, ∃ col,
      s.fb.pixel row col = true ∧ t.fb.pixel row col = false) ∧
    (t.getV 0xF = 0 ↔ ∀ row < s.cfg.displayHeight, ∀ col,
      s.fb.pixel row col = true → t.fb.pixel row col = true)

/-- Drawing the same sprite at the same place twice leaves the screen as it was (00_scope.md R14, "enabling
erasure via redraw"). The place is the same unless VF is a coordinate and the first draw changed it. -/
def Obligations.DrawingTwiceErases : Prop :=
  ∀ (x y n : Nibble) (s t u : State), exec (.drw x y n) s = .next t → t.getV x = s.getV x →
    t.getV y = s.getV y → exec (.drw x y n) t = .next u → u.fb = s.fb

/-- `SKP Vx` and `SKNP Vx`: the key polled is Vx's low nibble, and pc moves 2 further exactly when it is down, or
up (44_timers_io.md R215, R216; the nibble is decision D8, log 16, and the mask of pc decision D1, log 9). The
answer is the keypad's next one and is used up (log 3). -/
def Obligations.KeySkipsPollTheLowNibble : Prop :=
  ∀ (x : Nibble) (s : State),
    (∀ down rest, s.keypads = down :: rest →
      (s.keyDown (BitVec.ofNat 4 (s.getV x).toNat) = true ↔ BitVec.ofNat 4 (s.getV x).toNat ∈ down)) ∧
    (∃ t, exec (.skp x) s = .next t ∧
      t.pc.toNat = (if s.keyDown (BitVec.ofNat 4 (s.getV x).toNat) then (s.pc.toNat + 2) % 0x1000
        else s.pc.toNat) ∧
      t = { s with pc := t.pc, keypads := s.keypads.tail, draws := s.draws + 1 } ∧ s.sameBytes t) ∧
    (∃ t, exec (.sknp x) s = .next t ∧
      t.pc.toNat = (if s.keyDown (BitVec.ofNat 4 (s.getV x).toNat) then s.pc.toNat
        else (s.pc.toNat + 2) % 0x1000) ∧
      t = { s with pc := t.pc, keypads := s.keypads.tail, draws := s.draws + 1 } ∧ s.sameBytes t)

/-- `LD Vx, DT`, `LD DT, Vx` and `LD ST, Vx` (44_timers_io.md R217, R220, R221). -/
def Obligations.TimersAreReadAndSet : Prop :=
  ∀ (x : Nibble) (s : State),
    (∃ t, exec (.ldVxDt x) s = .next t ∧ t.getV x = s.dt ∧ (∀ z ≠ x, t.getV z = s.getV z) ∧
      t = { s with v := t.v } ∧ s.sameBytes t) ∧
    (∃ t, exec (.ldDtVx x) s = .next t ∧ t.dt = s.getV x ∧ t = { s with dt := t.dt } ∧ s.sameBytes t) ∧
    (∃ t, exec (.ldStVx x) s = .next t ∧ t.st = s.getV x ∧ t = { s with st := t.st } ∧ s.sameBytes t)

/-- `LD Vx, K`: the engine waits, pc as advanced, and Vx is not written yet (44_timers_io.md R218, the spec's
decision D9, log 17). -/
def Obligations.LdVxKWaits : Prop :=
  ∀ (x : Nibble) (s : State), exec (.ldVxK x) s = .next { s with run := .waitingForKey x }

/-- A key press in a started machine: it ends a wait, writing its key to the register that waits for it, and does
nothing in Running or Halted (44_timers_io.md R219, the spec's decision D9, log 17). -/
def Obligations.KeyPressEndsAWait : Prop :=
  ∀ (s : State) (k : Nibble) (rest : List Turn), s.agenda = .keyPress k :: rest → s.phase = .started →
    (∀ x, s.run = .waitingForKey x → ∃ t, step s = .next t ∧ (t.getV x).toNat = k.toNat ∧
      (∀ z ≠ x, t.getV z = s.getV z) ∧ t = { s with v := t.v, run := .running, agenda := rest } ∧ s.sameBytes t) ∧
    ((∀ x, s.run ≠ .waitingForKey x) → step s = .next { s with agenda := rest })

/-- A timer tick: each timer goes down by 1 and stops at 0, in Running and in a wait; in Halted and before start
nothing changes (44_timers_io.md R222, the spec's decision D13, log 2 and log 8). -/
def Obligations.TickCountsBothTimersDown : Prop :=
  ∀ (s : State) (rest : List Turn), s.agenda = .tick :: rest →
    ((s.phase = .started ∧ ∀ r, s.run ≠ .halted r) → ∃ t, step s = .next t ∧ t.dt.toNat = s.dt.toNat - 1 ∧
      t.st.toNat = s.st.toNat - 1 ∧ t = { s with dt := t.dt, st := t.st, agenda := rest } ∧ s.sameBytes t) ∧
    (¬(s.phase = .started ∧ ∀ r, s.run ≠ .halted r) → step s = .next { s with agenda := rest })

/-- Any number of ticks: each timer is down by that many and never below 0 (10_state.md R30, 44_timers_io.md
R222; that ticks are turns of the agenda is the model's, log 2). -/
def Obligations.TicksNeverGoBelowZero : Prop :=
  ∀ (n : Nat) (s : State), s.agenda = List.replicate n .tick → s.phase = .started → (∀ r, s.run ≠ .halted r) →
    ∃ t, Sys2Proof.core.run n s = .next t ∧ t.dt.toNat = s.dt.toNat - n ∧ t.st.toNat = s.st.toNat - n ∧
      t = { s with dt := t.dt, st := t.st, agenda := [] }

/-- The tone is on exactly while ST is not 0 (44_timers_io.md R223, the spec's decision D24, log 27). -/
def Obligations.ToneFollowsST : Prop :=
  ∀ (x : Nibble) (s : State), (s.tone = true ↔ s.st ≠ 0) ∧
    ∀ t, exec (.ldStVx x) s = .next t → (t.tone = true ↔ s.getV x ≠ 0)

/-! ## SYS, unknown words, halts and the host -/

/-- `SYS addr` does nothing beyond the advance and logs nothing (40_execution_cycle.md R107, the spec's decision
D26, log 19). -/
def Obligations.SysDoesNothing : Prop := ∀ (addr : Addr) (s : State), exec (.sys addr) s = .next s

/-- A whole step of an unknown word appends its fetch address and the word to the log, advances pc by 2, and
changes nothing else (40_execution_cycle.md R108, the spec's decision D12, log 19; the mask of pc is decision D1,
log 9). -/
def Obligations.UnknownWordIsLoggedAndSkipped : Prop :=
  ∀ (s : State) (w : Word), s.engineNext → s.runs → decode s.fetchWord = .unknown w →
    w = s.fetchWord ∧ ∃ t, step s = .next t ∧
      t.log = s.log ++ [.unknownOpcode (BitVec.ofNat 12 s.pc.toNat) s.fetchWord] ∧
      t.pc.toNat = (s.pc.toNat + 2) % 0x1000 ∧
      t = { s with log := t.log, pc := t.pc, agenda := s.agenda.tail } ∧ s.sameBytes t

/-- `UNKNOWN(w)` completes in every state, changing the log alone (40_execution_cycle.md R108, the spec's decision
D12; that the address is found from the advanced pc is the model's, log 19). -/
def Obligations.UnknownChangesTheLogAlone : Prop :=
  ∀ (w : Word) (s : State), ∃ t, exec (.unknown w) s = .next t ∧
    t.log = s.log ++ [.unknownOpcode (BitVec.ofNat 12 (s.pc.toNat + 0x1000 - 2)) w] ∧
    t = { s with log := t.log } ∧ s.sameBytes t

/-- A step faults only because the machine is halted, with the halt's reason, and refuses only a host's load or
start outside its contract (40_execution_cycle.md R109, 93_implementation_defined.md section 1; log 5,
log 7). -/
def Obligations.StepStopsOnlyWhenHaltedOrMisused : Prop :=
  ∀ s : State,
    (∀ f, step s = .fault f → s.engineNext ∧ s.phase = .started ∧ ∃ r, s.run = .halted r ∧ f = .halted r) ∧
    (∀ f, step s = .refused f →
      (∃ bytes rest, s.agenda = .load bytes :: rest ∧ (s.phase = .loaded ∨ s.phase = .started) ∧
        f = .loadOutsideContract) ∨
      (∃ rest, s.agenda = .start :: rest ∧ s.phase ≠ .loaded ∧ f = .startOutsideContract))

/-- Halted is terminal: the engine has no further step, and no turn of any agent changes anything
(40_execution_cycle.md R109, 60_exceptions.md R264). That the engine's turn answers a fault is the model's
(log 5). -/
def Obligations.HaltedIsTerminal : Prop :=
  ∀ (s : State) (r : HaltReason), s.phase = .started → s.run = .halted r →
    (s.engineNext → step s = .fault (.halted r)) ∧ (∀ t, step s = .next t → t = s.turnTaken)

/-- In a wait, and before start, the engine's turn changes nothing: no fetch, no advance (40_execution_cycle.md
R109, 70_reset_and_hazards.md R283; that such a turn passes is the model's, log 6 and log 8). -/
def Obligations.EngineRestsInWaitAndBeforeStart : Prop :=
  ∀ s : State, s.engineNext → (s.phase ≠ .started ∨ ∃ x, s.run = .waitingForKey x) → step s = .next s.turnTaken

/-- Before start no agent changes anything: the engine, the timer, a key press and a stop request are not taken
(70_reset_and_hazards.md R283, the spec's decision D17; that such a turn passes, and that a stop is among
them, is the model's, log 8). -/
def Obligations.NothingIsTakenBeforeStart : Prop :=
  ∀ (s : State) (u : Turn) (rest : List Turn), s.phase ≠ .started → s.agenda = u :: rest →
    (u = .engine ∨ u = .tick ∨ u = .stop ∨ ∃ k, u = .keyPress k) → step s = .next { s with agenda := rest }

/-- A stop request halts a running or waiting machine and changes nothing else; a halted one ignores it
(60_exceptions.md R255, the spec's decision D19, log 27). -/
def Obligations.StopRequestHalts : Prop :=
  ∀ (s : State) (rest : List Turn), s.agenda = .stop :: rest → s.phase = .started →
    ((∀ r, s.run ≠ .halted r) → step s = .next { s with run := .halted .stopRequested, agenda := rest }) ∧
    (∀ r, s.run = .halted r → step s = .next { s with agenda := rest })

/-- `load_program`: bytes that fit are stored from PROGRAM_START on and no other byte changes; bytes that do not
fit change no byte, and the machine is not started (70_reset_and_hazards.md R284, 60_exceptions.md R259). The
answer is told by the model's `phase` (log 4). -/
def Obligations.LoadProgramStoresAllOrNothing : Prop :=
  ∀ (s : State) (bytes : List Byte) (rest : List Turn), s.agenda = .load bytes :: rest →
    (s.phase = .created ∨ s.phase = .loadRejected) → Memory.wf s.cfg s.mem = true →
    (bytes.length ≤ 0x1000 - s.cfg.programStart.addr → ∃ t, step s = .next t ∧ t.phase = .loaded ∧
      (∀ (k : Nat) (h : k < bytes.length), t.readByte (s.cfg.programStart.addr + k) = bytes[k]) ∧
      State.sameBytesBut s.cfg.programStart.addr bytes.length s t ∧
      t = { s with mem := t.mem, phase := .loaded, agenda := rest }) ∧
    (0x1000 - s.cfg.programStart.addr < bytes.length →
      step s = .next { s with phase := .loadRejected, agenda := rest })

/-- From creation, a load that fits and a start: the machine runs, pc is at PROGRAM_START, and the word to fetch is
the program's first (70_reset_and_hazards.md R281, R285; the two turns are the model's agenda, log 2 and
log 4). -/
def Obligations.BootReachesTheFirstWord : Prop :=
  ∀ (cfg : Config) (hi lo : Byte) (bytes : List Byte), cfg.wf →
    (hi :: lo :: bytes).length ≤ 0x1000 - cfg.programStart.addr →
    ∃ t, Sys2Proof.core.run 2 { State.create cfg with agenda := [.load (hi :: lo :: bytes), .start] } = .next t ∧
      t.runs ∧ t.agenda = [] ∧ t.pc.toNat = cfg.programStart.addr ∧ t.fetchWord = hi ++ lo

/-- At a self-jump the machine is at the end of a run: the step executes it and changes nothing
(70_reset_and_hazards.md R299, the spec's decision D21, log 29). -/
def Obligations.SelfJumpStepChangesNothing : Prop :=
  ∀ s : State, s.runs → s.agenda = [] → s.pc.toNat < 0x1000 → s.ended → step s = .next s

/-! ## Whole-machine rules -/

/-- The lists of writers, for every instruction: V registers (10_state.md R23), I (R25), pc (R27), SP and the
stack (R32), DT (R30), ST (R31), memory (20_memory.md R52), the screen (10_state.md R35), `run`
(40_execution_cycle.md R106) and the log (R108); a draw is taken by RND, SKP and SKNP alone (log 3), and no
instruction changes the parameters, the lifecycle or the agenda (log 1, log 2, log 4). -/
def Obligations.OnlyTheListedInstructionsWrite : Prop :=
  ∀ (i : Instr) (s t : State), exec i s = .next t →
    (∀ z, writesReg i z = false → t.getV z = s.getV z) ∧
    (writesIndex i = false → t.i = s.i) ∧ (writesPc i = false → t.pc = s.pc) ∧
    (writesStack i = false → t.sp = s.sp ∧ t.stack = s.stack) ∧
    ((∀ x, i ≠ .ldDtVx x) → t.dt = s.dt) ∧ ((∀ x, i ≠ .ldStVx x) → t.st = s.st) ∧
    (writesMemory i = false → t.mem = s.mem ∧ s.sameBytes t) ∧ (writesScreen i = false → t.fb = s.fb) ∧
    (writesRun i = false → t.run = s.run) ∧ ((∀ w, i ≠ .unknown w) → t.log = s.log) ∧
    ((∀ x kk, i ≠ .rnd x kk) → t.randoms = s.randoms) ∧
    ((∀ x, i ≠ .skp x ∧ i ≠ .sknp x) → t.keypads = s.keypads) ∧
    t.cfg = s.cfg ∧ t.phase = s.phase ∧ t.agenda = s.agenda

/-- An instruction that halts changes `run` alone: none of its writes is applied (60_exceptions.md R251,
40_execution_cycle.md R104; the kept pc is decision D10, log 18). -/
def Obligations.HaltingInstructionsWriteNothingElse : Prop :=
  ∀ (i : Instr) (s t : State) (r : HaltReason), exec i s = .next t → s.run = .running → t.run = .halted r →
    t = { s with run := .halted r } ∧
    ((r = .stackOverflow ∧ (∃ addr, i = .call addr) ∧ s.sp.val = 16) ∨
     (r = .stackUnderflow ∧ i = .ret ∧ s.sp.val = 0) ∨
     (r = .reservedWrite ∧ (∃ x, i = .ldBVx x ∨ i = .ldIVx x) ∧ s.cfg.reservedWrites = .fault))

/-- No step of any agent changes the parameters, forgets a log event, or leaves a started machine unstarted
(00_scope.md R9, 10_state.md R20, R37, 70_reset_and_hazards.md R287; log 1, log 4). -/
def Obligations.StepsKeepConfigLogAndStart : Prop :=
  ∀ s t : State, step s = .next t →
    t.cfg = s.cfg ∧ (∃ e, t.log = s.log ++ e ∧ e.length ≤ 1) ∧ (s.phase = .started → t.phase = .started)

/-- The log does not affect any step: with another log the machine takes the same step and logs the same events
(60_exceptions.md R258). -/
def Obligations.LogAffectsNoStep : Prop :=
  ∀ (s t : State) (l : List Event), step s = .next t →
    ∃ e, t.log = s.log ++ e ∧ step { s with log := l } = .next { t with log := l ++ e }

/-- The stack slots at and above SP affect no step: with other values in them the machine takes the same step, and
the slots below SP stay equal (10_state.md R29, R38; the layout is decision D20, log 21). -/
def Obligations.SlotsAboveSPAreHidden : Prop :=
  ∀ (s t : State) (k : Vector Word 16), (∀ j : Fin 16, j.val < s.sp.val → k.get j = s.stack.get j) →
    step s = .next t →
    ∃ k' : Vector Word 16, step { s with stack := k } = .next { t with stack := k' } ∧
      ∀ j : Fin 16, j.val < t.sp.val → k'.get j = t.stack.get j
end

