-- ==== Sys2Proof/Laws/Memory.lean ====
section
/-! SUPPORT. The laws of addresses and memory: masking, read after write, and that every write keeps the
canonical form. -/

namespace Sys2Proof.Machine

/-! ## Addresses -/

@[simp] theorem mask12_toNat (a : Nat) : (mask12 a).toNat = a % 0x1000 := by
  simp only [mask12, BitVec.toNat_ofNat]
  omega

theorem mask12_lt (a : Nat) : (mask12 a).toNat < 0x1000 := by
  rw [mask12_toNat]
  exact Nat.mod_lt _ (by decide)

theorem mask12_of_lt {a : Nat} (h : a < 0x1000) : mask12 a = BitVec.ofNat 16 a := by
  rw [mask12, Nat.mod_eq_of_lt h]

theorem mask12_eq_self {w : Word} (h : w.toNat < 0x1000) : mask12 w.toNat = w := by
  rw [mask12_of_lt h, BitVec.ofNat_toNat, BitVec.setWidth_eq]

/-! ## One byte -/

theorem Memory.find_insert_same (a : Nat) (b : Byte) (m : Memory) :
    Memory.find a (Memory.insert a b m) = some b := by
  induction m with
  | nil => simp [Memory.insert, Memory.find]
  | cons e m ih =>
    simp only [Memory.insert]
    split
    · simp [Memory.find]
    · split
      · simp [Memory.find]
      · simp [Memory.find, ih, Ne.symm ‹¬a = e.1›]

theorem Memory.find_insert_other {a c : Nat} (h : c ≠ a) (b : Byte) (m : Memory) :
    Memory.find c (Memory.insert a b m) = Memory.find c m := by
  induction m with
  | nil => simp [Memory.insert, Memory.find, h.symm]
  | cons e m ih =>
    simp only [Memory.insert]
    split
    · simp [Memory.find, h.symm]
    · split
      · rename_i heq
        simp [Memory.find, h.symm, ← heq]
      · simp [Memory.find, ih]

theorem Memory.find_erase_other {a c : Nat} (h : c ≠ a) (m : Memory) :
    Memory.find c (Memory.erase a m) = Memory.find c m := by
  induction m with
  | nil => rfl
  | cons e m ih =>
    simp only [Memory.erase]
    split
    · rename_i heq
      simp [Memory.find, heq, h.symm]
    · simp [Memory.find, ih]

/-- Nothing is listed below the bound that a canonical memory starts from. -/
theorem Memory.find_below {cfg : Config} {lo a : Nat} {m : Memory}
    (h : Memory.wfFrom cfg lo m = true) (ha : a < lo) : Memory.find a m = none := by
  induction m generalizing lo with
  | nil => rfl
  | cons e m ih =>
    simp only [Memory.wfFrom, Bool.and_eq_true, decide_eq_true_eq] at h
    obtain ⟨⟨⟨h1, -⟩, -⟩, h4⟩ := h
    have hne : ¬e.1 = a := by omega
    simp only [Memory.find, hne, if_false]
    exact ih h4 (by omega)

theorem Memory.find_erase_same {cfg : Config} {lo : Nat} (a : Nat) {m : Memory}
    (h : Memory.wfFrom cfg lo m = true) : Memory.find a (Memory.erase a m) = none := by
  induction m generalizing lo with
  | nil => rfl
  | cons e m ih =>
    simp only [Memory.wfFrom, Bool.and_eq_true, decide_eq_true_eq] at h
    obtain ⟨-, h4⟩ := h
    simp only [Memory.erase]
    split
    · exact Memory.find_below h4 (by omega)
    · simp [Memory.find, *, ih h4]

/-- A read after a write to the same address gives the byte written. -/
theorem Memory.read_write_same {cfg : Config} {m : Memory} (h : Memory.wf cfg m = true) (a : Nat) (b : Byte) :
    Memory.read cfg (Memory.write cfg m a b) a = b := by
  by_cases hb : b = resetByte cfg a
  · simp [Memory.write, Memory.read, ← hb, Memory.find_erase_same a h]
  · simp [Memory.write, Memory.read, hb, Memory.find_insert_same]

/-- A write leaves every other address alone. -/
theorem Memory.read_write_other {cfg : Config} {m : Memory} {a c : Nat} (h : c ≠ a) (b : Byte) :
    Memory.read cfg (Memory.write cfg m a b) c = Memory.read cfg m c := by
  by_cases hb : b = resetByte cfg a
  · simp [Memory.write, Memory.read, ← hb, Memory.find_erase_other h]
  · simp [Memory.write, Memory.read, hb, Memory.find_insert_other h]

/-! ## The canonical form -/

theorem Memory.wfFrom_mono {cfg : Config} {lo lo' : Nat} {m : Memory} (h : Memory.wfFrom cfg lo m = true)
    (hlo : lo' ≤ lo) : Memory.wfFrom cfg lo' m = true := by
  cases m with
  | nil => rfl
  | cons e m =>
    simp only [Memory.wfFrom, Bool.and_eq_true, decide_eq_true_eq] at h ⊢
    exact ⟨⟨⟨by omega, h.1.1.2⟩, h.1.2⟩, h.2⟩

theorem Memory.wfFrom_insert {cfg : Config} {lo a : Nat} {b : Byte} {m : Memory}
    (h : Memory.wfFrom cfg lo m = true) (hlo : lo ≤ a) (ha : a < memSize) (hb : b ≠ resetByte cfg a) :
    Memory.wfFrom cfg lo (Memory.insert a b m) = true := by
  induction m generalizing lo with
  | nil => simp [Memory.insert, Memory.wfFrom, hlo, ha, hb]
  | cons e m ih =>
    have h' := h
    simp only [Memory.wfFrom, Bool.and_eq_true, decide_eq_true_eq] at h'
    obtain ⟨⟨⟨h1, h2⟩, h3⟩, h4⟩ := h'
    simp only [Memory.insert]
    split
    · simp only [Memory.wfFrom, Bool.and_eq_true, decide_eq_true_eq]
      exact ⟨⟨⟨hlo, ha⟩, hb⟩, ⟨⟨by omega, h2⟩, h3⟩, h4⟩
    · split
      · simp only [Memory.wfFrom, Bool.and_eq_true, decide_eq_true_eq]
        exact ⟨⟨⟨hlo, ha⟩, hb⟩, Memory.wfFrom_mono h4 (by omega)⟩
      · simp only [Memory.wfFrom, Bool.and_eq_true, decide_eq_true_eq]
        exact ⟨⟨⟨h1, h2⟩, h3⟩, ih h4 (by omega)⟩

theorem Memory.wfFrom_erase {cfg : Config} {lo : Nat} (a : Nat) {m : Memory}
    (h : Memory.wfFrom cfg lo m = true) : Memory.wfFrom cfg lo (Memory.erase a m) = true := by
  induction m generalizing lo with
  | nil => rfl
  | cons e m ih =>
    simp only [Memory.wfFrom, Bool.and_eq_true, decide_eq_true_eq] at h
    obtain ⟨⟨⟨h1, h2⟩, h3⟩, h4⟩ := h
    simp only [Memory.erase]
    split
    · exact Memory.wfFrom_mono h4 (by omega)
    · simp only [Memory.wfFrom, Bool.and_eq_true, decide_eq_true_eq]
      exact ⟨⟨⟨h1, h2⟩, h3⟩, ih h4⟩

/-- A write inside the address space keeps the canonical form. -/
theorem Memory.wf_write {cfg : Config} {m : Memory} (h : Memory.wf cfg m = true) {a : Nat} (ha : a < memSize)
    (b : Byte) : Memory.wf cfg (Memory.write cfg m a b) = true := by
  unfold Memory.write
  split
  · exact Memory.wfFrom_erase a h
  · exact Memory.wfFrom_insert h (Nat.zero_le a) ha ‹_›

theorem Memory.wf_writeBytes {cfg : Config} {m : Memory} (h : Memory.wf cfg m = true) (base : Nat)
    (bs : List Byte) : Memory.wf cfg (Memory.writeBytes cfg m base bs) = true := by
  induction bs generalizing m base with
  | nil => exact h
  | cons b bs ih => exact ih (Memory.wf_write h (mask12_lt base) b) (base + 1)

theorem Memory.wf_load {cfg : Config} {m m' : Memory} (h : Memory.wf cfg m = true) {bytes : List Byte}
    {start : Nat} (hl : Memory.load cfg m bytes start = some m') : Memory.wf cfg m' = true := by
  unfold Memory.load at hl
  split at hl
  · cases hl
  · cases hl
    exact Memory.wf_writeBytes h _ _

/-- The reset memory lists nothing, so it is canonical. -/
theorem create_memory_wf (cfg : Config) : Memory.wf cfg (State.create cfg).mem = true := rfl

/-! ## Sequences of bytes -/

/-- A sequence leaves alone every address that is none of its own. -/
theorem Memory.read_writeBytes_other {cfg : Config} (m : Memory) {base c : Nat} (bs : List Byte)
    (h : ∀ k < bs.length, c ≠ (base + k) % 0x1000) :
    Memory.read cfg (Memory.writeBytes cfg m base bs) c = Memory.read cfg m c := by
  induction bs generalizing m base with
  | nil => rfl
  | cons b bs ih =>
    simp only [Memory.writeBytes]
    rw [ih (base := base + 1), Memory.read_write_other]
    · simpa using h 0 (by simp)
    · intro k hk
      have := h (k + 1) (by simpa using hk)
      rwa [show base + (k + 1) = base + 1 + k by omega] at this

/-- A sequence no longer than the address space leaves byte `k` at `Mask12(base + k)`. -/
theorem Memory.read_writeBytes {cfg : Config} {m : Memory} (hm : Memory.wf cfg m = true) {base : Nat}
    {bs : List Byte} (hlen : bs.length ≤ 0x1000) {k : Nat} (hk : k < bs.length) :
    Memory.read cfg (Memory.writeBytes cfg m base bs) ((base + k) % 0x1000) = bs[k] := by
  induction bs generalizing m base k with
  | nil => simp at hk
  | cons b bs ih =>
    simp only [List.length_cons] at hlen hk
    have hw := Memory.wf_write hm (mask12_lt base) b
    cases k with
    | zero =>
      simp only [Memory.writeBytes]
      rw [Memory.read_writeBytes_other]
      · simpa using Memory.read_write_same hm (mask12 base).toNat b
      · intro j hj
        omega
    | succ k =>
      have := ih hw (base := base + 1) (by omega) (k := k) (by omega)
      rw [show base + 1 + k = base + (k + 1) by omega] at this
      simpa [Memory.writeBytes] using this

/-! ## The state's own reads -/

@[simp] theorem State.readBytes_length (s : State) (base n : Nat) : (s.readBytes base n).length = n := by
  simp [State.readBytes]

@[simp] theorem State.readBytes_getElem (s : State) (base n k : Nat) (h : k < (s.readBytes base n).length) :
    (s.readBytes base n)[k] = s.readByte (base + k) := by
  simp [State.readBytes]

theorem State.readByte_mod (s : State) (a : Nat) : s.readByte (a % 0x1000) = s.readByte a := by
  simp [State.readByte]

theorem touchesReserved_eq_false {base n : Nat} :
    touchesReserved base n = false ↔ ∀ k < n, 0x200 ≤ (base + k) % 0x1000 := by
  simp [touchesReserved, reservedEnd]

end Sys2Proof.Machine
end

