-- ==== Sys2Proof/Laws/State.lean ====
section
/-! SUPPORT. What each plain update of the state does to each field, one lemma a field, all true by rfl; then
the same for the updates with a case split. -/

namespace Sys2Proof.Machine


/-! ### setV -/

@[simp] theorem State.setV_cfg (s : State) (x : Nibble) (b : Byte) : (s.setV x b).cfg = s.cfg := rfl
@[simp] theorem State.setV_v (s : State) (x : Nibble) (b : Byte) : (s.setV x b).v = s.v.set x.toNat b x.isLt := rfl
@[simp] theorem State.setV_i (s : State) (x : Nibble) (b : Byte) : (s.setV x b).i = s.i := rfl
@[simp] theorem State.setV_pc (s : State) (x : Nibble) (b : Byte) : (s.setV x b).pc = s.pc := rfl
@[simp] theorem State.setV_sp (s : State) (x : Nibble) (b : Byte) : (s.setV x b).sp = s.sp := rfl
@[simp] theorem State.setV_stack (s : State) (x : Nibble) (b : Byte) : (s.setV x b).stack = s.stack := rfl
@[simp] theorem State.setV_dt (s : State) (x : Nibble) (b : Byte) : (s.setV x b).dt = s.dt := rfl
@[simp] theorem State.setV_st (s : State) (x : Nibble) (b : Byte) : (s.setV x b).st = s.st := rfl
@[simp] theorem State.setV_mem (s : State) (x : Nibble) (b : Byte) : (s.setV x b).mem = s.mem := rfl
@[simp] theorem State.setV_run (s : State) (x : Nibble) (b : Byte) : (s.setV x b).run = s.run := rfl
@[simp] theorem State.setV_fb (s : State) (x : Nibble) (b : Byte) : (s.setV x b).fb = s.fb := rfl
@[simp] theorem State.setV_log (s : State) (x : Nibble) (b : Byte) : (s.setV x b).log = s.log := rfl
@[simp] theorem State.setV_phase (s : State) (x : Nibble) (b : Byte) : (s.setV x b).phase = s.phase := rfl
@[simp] theorem State.setV_agenda (s : State) (x : Nibble) (b : Byte) : (s.setV x b).agenda = s.agenda := rfl
@[simp] theorem State.setV_randoms (s : State) (x : Nibble) (b : Byte) : (s.setV x b).randoms = s.randoms := rfl
@[simp] theorem State.setV_keypads (s : State) (x : Nibble) (b : Byte) : (s.setV x b).keypads = s.keypads := rfl
@[simp] theorem State.setV_draws (s : State) (x : Nibble) (b : Byte) : (s.setV x b).draws = s.draws := rfl

/-! ### setI -/

@[simp] theorem State.setI_cfg (s : State) (a : Nat) : (s.setI a).cfg = s.cfg := rfl
@[simp] theorem State.setI_v (s : State) (a : Nat) : (s.setI a).v = s.v := rfl
@[simp] theorem State.setI_i (s : State) (a : Nat) : (s.setI a).i = mask12 a := rfl
@[simp] theorem State.setI_pc (s : State) (a : Nat) : (s.setI a).pc = s.pc := rfl
@[simp] theorem State.setI_sp (s : State) (a : Nat) : (s.setI a).sp = s.sp := rfl
@[simp] theorem State.setI_stack (s : State) (a : Nat) : (s.setI a).stack = s.stack := rfl
@[simp] theorem State.setI_dt (s : State) (a : Nat) : (s.setI a).dt = s.dt := rfl
@[simp] theorem State.setI_st (s : State) (a : Nat) : (s.setI a).st = s.st := rfl
@[simp] theorem State.setI_mem (s : State) (a : Nat) : (s.setI a).mem = s.mem := rfl
@[simp] theorem State.setI_run (s : State) (a : Nat) : (s.setI a).run = s.run := rfl
@[simp] theorem State.setI_fb (s : State) (a : Nat) : (s.setI a).fb = s.fb := rfl
@[simp] theorem State.setI_log (s : State) (a : Nat) : (s.setI a).log = s.log := rfl
@[simp] theorem State.setI_phase (s : State) (a : Nat) : (s.setI a).phase = s.phase := rfl
@[simp] theorem State.setI_agenda (s : State) (a : Nat) : (s.setI a).agenda = s.agenda := rfl
@[simp] theorem State.setI_randoms (s : State) (a : Nat) : (s.setI a).randoms = s.randoms := rfl
@[simp] theorem State.setI_keypads (s : State) (a : Nat) : (s.setI a).keypads = s.keypads := rfl
@[simp] theorem State.setI_draws (s : State) (a : Nat) : (s.setI a).draws = s.draws := rfl

/-! ### setPc -/

@[simp] theorem State.setPc_cfg (s : State) (a : Nat) : (s.setPc a).cfg = s.cfg := rfl
@[simp] theorem State.setPc_v (s : State) (a : Nat) : (s.setPc a).v = s.v := rfl
@[simp] theorem State.setPc_i (s : State) (a : Nat) : (s.setPc a).i = s.i := rfl
@[simp] theorem State.setPc_pc (s : State) (a : Nat) : (s.setPc a).pc = mask12 a := rfl
@[simp] theorem State.setPc_sp (s : State) (a : Nat) : (s.setPc a).sp = s.sp := rfl
@[simp] theorem State.setPc_stack (s : State) (a : Nat) : (s.setPc a).stack = s.stack := rfl
@[simp] theorem State.setPc_dt (s : State) (a : Nat) : (s.setPc a).dt = s.dt := rfl
@[simp] theorem State.setPc_st (s : State) (a : Nat) : (s.setPc a).st = s.st := rfl
@[simp] theorem State.setPc_mem (s : State) (a : Nat) : (s.setPc a).mem = s.mem := rfl
@[simp] theorem State.setPc_run (s : State) (a : Nat) : (s.setPc a).run = s.run := rfl
@[simp] theorem State.setPc_fb (s : State) (a : Nat) : (s.setPc a).fb = s.fb := rfl
@[simp] theorem State.setPc_log (s : State) (a : Nat) : (s.setPc a).log = s.log := rfl
@[simp] theorem State.setPc_phase (s : State) (a : Nat) : (s.setPc a).phase = s.phase := rfl
@[simp] theorem State.setPc_agenda (s : State) (a : Nat) : (s.setPc a).agenda = s.agenda := rfl
@[simp] theorem State.setPc_randoms (s : State) (a : Nat) : (s.setPc a).randoms = s.randoms := rfl
@[simp] theorem State.setPc_keypads (s : State) (a : Nat) : (s.setPc a).keypads = s.keypads := rfl
@[simp] theorem State.setPc_draws (s : State) (a : Nat) : (s.setPc a).draws = s.draws := rfl

/-! ### advance -/

@[simp] theorem State.advance_cfg (s : State) : (s.advance).cfg = s.cfg := rfl
@[simp] theorem State.advance_v (s : State) : (s.advance).v = s.v := rfl
@[simp] theorem State.advance_i (s : State) : (s.advance).i = s.i := rfl
@[simp] theorem State.advance_pc (s : State) : (s.advance).pc = mask12 (s.pc.toNat + 2) := rfl
@[simp] theorem State.advance_sp (s : State) : (s.advance).sp = s.sp := rfl
@[simp] theorem State.advance_stack (s : State) : (s.advance).stack = s.stack := rfl
@[simp] theorem State.advance_dt (s : State) : (s.advance).dt = s.dt := rfl
@[simp] theorem State.advance_st (s : State) : (s.advance).st = s.st := rfl
@[simp] theorem State.advance_mem (s : State) : (s.advance).mem = s.mem := rfl
@[simp] theorem State.advance_run (s : State) : (s.advance).run = s.run := rfl
@[simp] theorem State.advance_fb (s : State) : (s.advance).fb = s.fb := rfl
@[simp] theorem State.advance_log (s : State) : (s.advance).log = s.log := rfl
@[simp] theorem State.advance_phase (s : State) : (s.advance).phase = s.phase := rfl
@[simp] theorem State.advance_agenda (s : State) : (s.advance).agenda = s.agenda := rfl
@[simp] theorem State.advance_randoms (s : State) : (s.advance).randoms = s.randoms := rfl
@[simp] theorem State.advance_keypads (s : State) : (s.advance).keypads = s.keypads := rfl
@[simp] theorem State.advance_draws (s : State) : (s.advance).draws = s.draws := rfl

/-! ### halt -/

@[simp] theorem State.halt_cfg (s : State) (r : HaltReason) : (s.halt r).cfg = s.cfg := rfl
@[simp] theorem State.halt_v (s : State) (r : HaltReason) : (s.halt r).v = s.v := rfl
@[simp] theorem State.halt_i (s : State) (r : HaltReason) : (s.halt r).i = s.i := rfl
@[simp] theorem State.halt_pc (s : State) (r : HaltReason) : (s.halt r).pc = s.pc := rfl
@[simp] theorem State.halt_sp (s : State) (r : HaltReason) : (s.halt r).sp = s.sp := rfl
@[simp] theorem State.halt_stack (s : State) (r : HaltReason) : (s.halt r).stack = s.stack := rfl
@[simp] theorem State.halt_dt (s : State) (r : HaltReason) : (s.halt r).dt = s.dt := rfl
@[simp] theorem State.halt_st (s : State) (r : HaltReason) : (s.halt r).st = s.st := rfl
@[simp] theorem State.halt_mem (s : State) (r : HaltReason) : (s.halt r).mem = s.mem := rfl
@[simp] theorem State.halt_run (s : State) (r : HaltReason) : (s.halt r).run = .halted r := rfl
@[simp] theorem State.halt_fb (s : State) (r : HaltReason) : (s.halt r).fb = s.fb := rfl
@[simp] theorem State.halt_log (s : State) (r : HaltReason) : (s.halt r).log = s.log := rfl
@[simp] theorem State.halt_phase (s : State) (r : HaltReason) : (s.halt r).phase = s.phase := rfl
@[simp] theorem State.halt_agenda (s : State) (r : HaltReason) : (s.halt r).agenda = s.agenda := rfl
@[simp] theorem State.halt_randoms (s : State) (r : HaltReason) : (s.halt r).randoms = s.randoms := rfl
@[simp] theorem State.halt_keypads (s : State) (r : HaltReason) : (s.halt r).keypads = s.keypads := rfl
@[simp] theorem State.halt_draws (s : State) (r : HaltReason) : (s.halt r).draws = s.draws := rfl

/-! ### logEvent -/

@[simp] theorem State.logEvent_cfg (s : State) (e : Event) : (s.logEvent e).cfg = s.cfg := rfl
@[simp] theorem State.logEvent_v (s : State) (e : Event) : (s.logEvent e).v = s.v := rfl
@[simp] theorem State.logEvent_i (s : State) (e : Event) : (s.logEvent e).i = s.i := rfl
@[simp] theorem State.logEvent_pc (s : State) (e : Event) : (s.logEvent e).pc = s.pc := rfl
@[simp] theorem State.logEvent_sp (s : State) (e : Event) : (s.logEvent e).sp = s.sp := rfl
@[simp] theorem State.logEvent_stack (s : State) (e : Event) : (s.logEvent e).stack = s.stack := rfl
@[simp] theorem State.logEvent_dt (s : State) (e : Event) : (s.logEvent e).dt = s.dt := rfl
@[simp] theorem State.logEvent_st (s : State) (e : Event) : (s.logEvent e).st = s.st := rfl
@[simp] theorem State.logEvent_mem (s : State) (e : Event) : (s.logEvent e).mem = s.mem := rfl
@[simp] theorem State.logEvent_run (s : State) (e : Event) : (s.logEvent e).run = s.run := rfl
@[simp] theorem State.logEvent_fb (s : State) (e : Event) : (s.logEvent e).fb = s.fb := rfl
@[simp] theorem State.logEvent_log (s : State) (e : Event) : (s.logEvent e).log = s.log ++ [e] := rfl
@[simp] theorem State.logEvent_phase (s : State) (e : Event) : (s.logEvent e).phase = s.phase := rfl
@[simp] theorem State.logEvent_agenda (s : State) (e : Event) : (s.logEvent e).agenda = s.agenda := rfl
@[simp] theorem State.logEvent_randoms (s : State) (e : Event) : (s.logEvent e).randoms = s.randoms := rfl
@[simp] theorem State.logEvent_keypads (s : State) (e : Event) : (s.logEvent e).keypads = s.keypads := rfl
@[simp] theorem State.logEvent_draws (s : State) (e : Event) : (s.logEvent e).draws = s.draws := rfl

/-! ### takeRandom -/

@[simp] theorem State.takeRandom_cfg (s : State) : (s.takeRandom).cfg = s.cfg := rfl
@[simp] theorem State.takeRandom_v (s : State) : (s.takeRandom).v = s.v := rfl
@[simp] theorem State.takeRandom_i (s : State) : (s.takeRandom).i = s.i := rfl
@[simp] theorem State.takeRandom_pc (s : State) : (s.takeRandom).pc = s.pc := rfl
@[simp] theorem State.takeRandom_sp (s : State) : (s.takeRandom).sp = s.sp := rfl
@[simp] theorem State.takeRandom_stack (s : State) : (s.takeRandom).stack = s.stack := rfl
@[simp] theorem State.takeRandom_dt (s : State) : (s.takeRandom).dt = s.dt := rfl
@[simp] theorem State.takeRandom_st (s : State) : (s.takeRandom).st = s.st := rfl
@[simp] theorem State.takeRandom_mem (s : State) : (s.takeRandom).mem = s.mem := rfl
@[simp] theorem State.takeRandom_run (s : State) : (s.takeRandom).run = s.run := rfl
@[simp] theorem State.takeRandom_fb (s : State) : (s.takeRandom).fb = s.fb := rfl
@[simp] theorem State.takeRandom_log (s : State) : (s.takeRandom).log = s.log := rfl
@[simp] theorem State.takeRandom_phase (s : State) : (s.takeRandom).phase = s.phase := rfl
@[simp] theorem State.takeRandom_agenda (s : State) : (s.takeRandom).agenda = s.agenda := rfl
@[simp] theorem State.takeRandom_randoms (s : State) : (s.takeRandom).randoms = s.randoms.tail := rfl
@[simp] theorem State.takeRandom_keypads (s : State) : (s.takeRandom).keypads = s.keypads := rfl
@[simp] theorem State.takeRandom_draws (s : State) : (s.takeRandom).draws = s.draws + 1 := rfl

/-! ### takePoll -/

@[simp] theorem State.takePoll_cfg (s : State) : (s.takePoll).cfg = s.cfg := rfl
@[simp] theorem State.takePoll_v (s : State) : (s.takePoll).v = s.v := rfl
@[simp] theorem State.takePoll_i (s : State) : (s.takePoll).i = s.i := rfl
@[simp] theorem State.takePoll_pc (s : State) : (s.takePoll).pc = s.pc := rfl
@[simp] theorem State.takePoll_sp (s : State) : (s.takePoll).sp = s.sp := rfl
@[simp] theorem State.takePoll_stack (s : State) : (s.takePoll).stack = s.stack := rfl
@[simp] theorem State.takePoll_dt (s : State) : (s.takePoll).dt = s.dt := rfl
@[simp] theorem State.takePoll_st (s : State) : (s.takePoll).st = s.st := rfl
@[simp] theorem State.takePoll_mem (s : State) : (s.takePoll).mem = s.mem := rfl
@[simp] theorem State.takePoll_run (s : State) : (s.takePoll).run = s.run := rfl
@[simp] theorem State.takePoll_fb (s : State) : (s.takePoll).fb = s.fb := rfl
@[simp] theorem State.takePoll_log (s : State) : (s.takePoll).log = s.log := rfl
@[simp] theorem State.takePoll_phase (s : State) : (s.takePoll).phase = s.phase := rfl
@[simp] theorem State.takePoll_agenda (s : State) : (s.takePoll).agenda = s.agenda := rfl
@[simp] theorem State.takePoll_randoms (s : State) : (s.takePoll).randoms = s.randoms := rfl
@[simp] theorem State.takePoll_keypads (s : State) : (s.takePoll).keypads = s.keypads.tail := rfl
@[simp] theorem State.takePoll_draws (s : State) : (s.takePoll).draws = s.draws + 1 := rfl

/-! ### turnTaken -/

@[simp] theorem State.turnTaken_cfg (s : State) : (s.turnTaken).cfg = s.cfg := rfl
@[simp] theorem State.turnTaken_v (s : State) : (s.turnTaken).v = s.v := rfl
@[simp] theorem State.turnTaken_i (s : State) : (s.turnTaken).i = s.i := rfl
@[simp] theorem State.turnTaken_pc (s : State) : (s.turnTaken).pc = s.pc := rfl
@[simp] theorem State.turnTaken_sp (s : State) : (s.turnTaken).sp = s.sp := rfl
@[simp] theorem State.turnTaken_stack (s : State) : (s.turnTaken).stack = s.stack := rfl
@[simp] theorem State.turnTaken_dt (s : State) : (s.turnTaken).dt = s.dt := rfl
@[simp] theorem State.turnTaken_st (s : State) : (s.turnTaken).st = s.st := rfl
@[simp] theorem State.turnTaken_mem (s : State) : (s.turnTaken).mem = s.mem := rfl
@[simp] theorem State.turnTaken_run (s : State) : (s.turnTaken).run = s.run := rfl
@[simp] theorem State.turnTaken_fb (s : State) : (s.turnTaken).fb = s.fb := rfl
@[simp] theorem State.turnTaken_log (s : State) : (s.turnTaken).log = s.log := rfl
@[simp] theorem State.turnTaken_phase (s : State) : (s.turnTaken).phase = s.phase := rfl
@[simp] theorem State.turnTaken_agenda (s : State) : (s.turnTaken).agenda = s.agenda.tail := rfl
@[simp] theorem State.turnTaken_randoms (s : State) : (s.turnTaken).randoms = s.randoms := rfl
@[simp] theorem State.turnTaken_keypads (s : State) : (s.turnTaken).keypads = s.keypads := rfl
@[simp] theorem State.turnTaken_draws (s : State) : (s.turnTaken).draws = s.draws := rfl

/-! ### setFlag -/

@[simp] theorem State.setFlag_cfg (s : State) (f : Bool) : (s.setFlag f).cfg = s.cfg := rfl
@[simp] theorem State.setFlag_i (s : State) (f : Bool) : (s.setFlag f).i = s.i := rfl
@[simp] theorem State.setFlag_pc (s : State) (f : Bool) : (s.setFlag f).pc = s.pc := rfl
@[simp] theorem State.setFlag_sp (s : State) (f : Bool) : (s.setFlag f).sp = s.sp := rfl
@[simp] theorem State.setFlag_stack (s : State) (f : Bool) : (s.setFlag f).stack = s.stack := rfl
@[simp] theorem State.setFlag_dt (s : State) (f : Bool) : (s.setFlag f).dt = s.dt := rfl
@[simp] theorem State.setFlag_st (s : State) (f : Bool) : (s.setFlag f).st = s.st := rfl
@[simp] theorem State.setFlag_mem (s : State) (f : Bool) : (s.setFlag f).mem = s.mem := rfl
@[simp] theorem State.setFlag_run (s : State) (f : Bool) : (s.setFlag f).run = s.run := rfl
@[simp] theorem State.setFlag_fb (s : State) (f : Bool) : (s.setFlag f).fb = s.fb := rfl
@[simp] theorem State.setFlag_log (s : State) (f : Bool) : (s.setFlag f).log = s.log := rfl
@[simp] theorem State.setFlag_phase (s : State) (f : Bool) : (s.setFlag f).phase = s.phase := rfl
@[simp] theorem State.setFlag_agenda (s : State) (f : Bool) : (s.setFlag f).agenda = s.agenda := rfl
@[simp] theorem State.setFlag_randoms (s : State) (f : Bool) : (s.setFlag f).randoms = s.randoms := rfl
@[simp] theorem State.setFlag_keypads (s : State) (f : Bool) : (s.setFlag f).keypads = s.keypads := rfl
@[simp] theorem State.setFlag_draws (s : State) (f : Bool) : (s.setFlag f).draws = s.draws := rfl

/-! ### setFlagThenV -/

@[simp] theorem State.setFlagThenV_cfg (s : State) (f : Bool) (x : Nibble) (r : Byte) : (s.setFlagThenV f x r).cfg = s.cfg := rfl
@[simp] theorem State.setFlagThenV_i (s : State) (f : Bool) (x : Nibble) (r : Byte) : (s.setFlagThenV f x r).i = s.i := rfl
@[simp] theorem State.setFlagThenV_pc (s : State) (f : Bool) (x : Nibble) (r : Byte) : (s.setFlagThenV f x r).pc = s.pc := rfl
@[simp] theorem State.setFlagThenV_sp (s : State) (f : Bool) (x : Nibble) (r : Byte) : (s.setFlagThenV f x r).sp = s.sp := rfl
@[simp] theorem State.setFlagThenV_stack (s : State) (f : Bool) (x : Nibble) (r : Byte) : (s.setFlagThenV f x r).stack = s.stack := rfl
@[simp] theorem State.setFlagThenV_dt (s : State) (f : Bool) (x : Nibble) (r : Byte) : (s.setFlagThenV f x r).dt = s.dt := rfl
@[simp] theorem State.setFlagThenV_st (s : State) (f : Bool) (x : Nibble) (r : Byte) : (s.setFlagThenV f x r).st = s.st := rfl
@[simp] theorem State.setFlagThenV_mem (s : State) (f : Bool) (x : Nibble) (r : Byte) : (s.setFlagThenV f x r).mem = s.mem := rfl
@[simp] theorem State.setFlagThenV_run (s : State) (f : Bool) (x : Nibble) (r : Byte) : (s.setFlagThenV f x r).run = s.run := rfl
@[simp] theorem State.setFlagThenV_fb (s : State) (f : Bool) (x : Nibble) (r : Byte) : (s.setFlagThenV f x r).fb = s.fb := rfl
@[simp] theorem State.setFlagThenV_log (s : State) (f : Bool) (x : Nibble) (r : Byte) : (s.setFlagThenV f x r).log = s.log := rfl
@[simp] theorem State.setFlagThenV_phase (s : State) (f : Bool) (x : Nibble) (r : Byte) : (s.setFlagThenV f x r).phase = s.phase := rfl
@[simp] theorem State.setFlagThenV_agenda (s : State) (f : Bool) (x : Nibble) (r : Byte) : (s.setFlagThenV f x r).agenda = s.agenda := rfl
@[simp] theorem State.setFlagThenV_randoms (s : State) (f : Bool) (x : Nibble) (r : Byte) : (s.setFlagThenV f x r).randoms = s.randoms := rfl
@[simp] theorem State.setFlagThenV_keypads (s : State) (f : Bool) (x : Nibble) (r : Byte) : (s.setFlagThenV f x r).keypads = s.keypads := rfl
@[simp] theorem State.setFlagThenV_draws (s : State) (f : Bool) (x : Nibble) (r : Byte) : (s.setFlagThenV f x r).draws = s.draws := rfl

/-! ### skipIf -/

@[simp] theorem State.skipIf_cfg (s : State) (c : Bool) : (s.skipIf c).cfg = s.cfg := by cases c <;> rfl
@[simp] theorem State.skipIf_v (s : State) (c : Bool) : (s.skipIf c).v = s.v := by cases c <;> rfl
@[simp] theorem State.skipIf_i (s : State) (c : Bool) : (s.skipIf c).i = s.i := by cases c <;> rfl
@[simp] theorem State.skipIf_pc (s : State) (c : Bool) :
    (s.skipIf c).pc = if c then mask12 (s.pc.toNat + 2) else s.pc := by
  cases c <;> rfl
@[simp] theorem State.skipIf_sp (s : State) (c : Bool) : (s.skipIf c).sp = s.sp := by cases c <;> rfl
@[simp] theorem State.skipIf_stack (s : State) (c : Bool) : (s.skipIf c).stack = s.stack := by cases c <;> rfl
@[simp] theorem State.skipIf_dt (s : State) (c : Bool) : (s.skipIf c).dt = s.dt := by cases c <;> rfl
@[simp] theorem State.skipIf_st (s : State) (c : Bool) : (s.skipIf c).st = s.st := by cases c <;> rfl
@[simp] theorem State.skipIf_mem (s : State) (c : Bool) : (s.skipIf c).mem = s.mem := by cases c <;> rfl
@[simp] theorem State.skipIf_run (s : State) (c : Bool) : (s.skipIf c).run = s.run := by cases c <;> rfl
@[simp] theorem State.skipIf_fb (s : State) (c : Bool) : (s.skipIf c).fb = s.fb := by cases c <;> rfl
@[simp] theorem State.skipIf_log (s : State) (c : Bool) : (s.skipIf c).log = s.log := by cases c <;> rfl
@[simp] theorem State.skipIf_phase (s : State) (c : Bool) : (s.skipIf c).phase = s.phase := by cases c <;> rfl
@[simp] theorem State.skipIf_agenda (s : State) (c : Bool) : (s.skipIf c).agenda = s.agenda := by cases c <;> rfl
@[simp] theorem State.skipIf_randoms (s : State) (c : Bool) : (s.skipIf c).randoms = s.randoms := by cases c <;> rfl
@[simp] theorem State.skipIf_keypads (s : State) (c : Bool) : (s.skipIf c).keypads = s.keypads := by cases c <;> rfl
@[simp] theorem State.skipIf_draws (s : State) (c : Bool) : (s.skipIf c).draws = s.draws := by cases c <;> rfl

end Sys2Proof.Machine
end

