-- ==== Sys2Proof/Laws/Ops.lean ====
section
/-! SUPPORT. What each shared operation can do, said once: registers, flag writes, loads, the stack, stores,
draws and the pixels. -/

namespace Sys2Proof.Machine

/-! ## Registers -/

@[simp] theorem State.getV_setV_same (s : State) (x : Nibble) (b : Byte) : (s.setV x b).getV x = b := by
  simp [State.getV, State.setV, Vector.get_eq_getElem]

theorem State.getV_setV_other (s : State) {x z : Nibble} (h : z ≠ x) (b : Byte) :
    (s.setV x b).getV z = s.getV z := by
  have hne : x.toNat ≠ z.toNat := fun e => h (BitVec.eq_of_toNat_eq e.symm)
  simp [State.getV, State.setV, Vector.get_eq_getElem, hne]

theorem State.getV_setV (s : State) (x z : Nibble) (b : Byte) :
    (s.setV x b).getV z = if z = x then b else s.getV z := by
  split
  · next h => rw [h, State.getV_setV_same]
  · next h => exact State.getV_setV_other s h b

theorem State.setV_frame (s : State) (x : Nibble) (b : Byte) :
    s.setV x b = { s with v := (s.setV x b).v } := rfl

/-- A flag write and then the result: the result stands in Vx, the flag in VF unless `x = F`. -/
theorem State.getV_setFlagThenV (s : State) (f : Bool) (x z : Nibble) (r : Byte) :
    (s.setFlagThenV f x r).getV z = if z = x then r else if z = flagReg then flagByte f else s.getV z := by
  simp only [State.setFlagThenV, State.setFlag, State.getV_setV]

theorem State.setFlagThenV_frame (s : State) (f : Bool) (x : Nibble) (r : Byte) :
    s.setFlagThenV f x r = { s with v := (s.setFlagThenV f x r).v } := rfl

/-- Loading registers changes registers only. -/
theorem State.loadRegs_frame (s : State) (k : Nat) (bs : List Byte) :
    s.loadRegs k bs = { s with v := (s.loadRegs k bs).v } := by
  induction bs generalizing s k with
  | nil => rfl
  | cons b bs ih =>
    simp only [State.loadRegs]
    rw [ih]
    rfl

/-- Loading registers from `k` on leaves byte `j` in register `k + j` and every other register alone. -/
theorem State.getV_loadRegs (s : State) (k : Nat) (bs : List Byte) (h : k + bs.length ≤ 16) (z : Nibble) :
    (s.loadRegs k bs).getV z =
      if hz : k ≤ z.toNat ∧ z.toNat < k + bs.length then bs[z.toNat - k]'(by omega) else s.getV z := by
  induction bs generalizing s k with
  | nil =>
    rw [dif_neg (by simp), State.loadRegs]
  | cons b bs ih =>
    simp only [List.length_cons] at h
    have hk : (BitVec.ofNat 4 k).toNat = k := by simp; omega
    have hx : z = BitVec.ofNat 4 k ↔ z.toNat = k := by
      constructor
      · rintro rfl
        exact hk
      · intro e
        exact BitVec.eq_of_toNat_eq (e.trans hk.symm)
    simp only [State.loadRegs, ih (s.setV (BitVec.ofNat 4 k) b) (k + 1) (by omega), State.getV_setV, hx,
      List.length_cons]
    split
    · next hz =>
      rw [dif_pos (by omega), List.getElem_cons, dif_neg (by omega)]
      congr 1
    · next hz =>
      split
      · next e =>
        rw [dif_pos (by omega), List.getElem_cons, dif_pos (by omega)]
      · next e => rw [dif_neg (by omega)]

@[simp] theorem State.regsUpTo_length (s : State) (x : Nibble) : (s.regsUpTo x).length = x.toNat + 1 := by
  simp [State.regsUpTo]

@[simp] theorem State.regsUpTo_getElem (s : State) (x : Nibble) (k : Nat) (h : k < (s.regsUpTo x).length) :
    (s.regsUpTo x)[k] = s.getV (BitVec.ofNat 4 k) := by
  simp [State.regsUpTo]

/-! ## Stack -/

theorem State.pushAndJump_next {s : State} (h : s.sp.val < 16) (target : Nat) :
    s.pushAndJump target =
      { s with stack := s.stack.set s.sp.val s.pc h, sp := ⟨s.sp.val + 1, by omega⟩, pc := mask12 target } :=
  dif_pos h

theorem State.pushAndJump_full {s : State} (h : s.sp.val = 16) (target : Nat) :
    s.pushAndJump target = s.halt .stackOverflow := dif_neg (by omega)

theorem State.popAndJump_next {s : State} (h : 0 < s.sp.val) :
    s.popAndJump = { s with sp := ⟨s.sp.val - 1, by omega⟩,
                            pc := mask12 (s.stack[s.sp.val - 1]'(by omega)).toNat } := dif_pos h

theorem State.popAndJump_empty {s : State} (h : s.sp.val = 0) : s.popAndJump = s.halt .stackUnderflow :=
  dif_neg (by omega)

/-! ## Stores -/

/-- A store either writes its bytes or, under policy `fault` at a reserved address, halts with nothing
written. -/
theorem State.store_cases (s : State) (base : Nat) (bytes : List Byte) :
    (s.store base bytes = { s with mem := Memory.writeBytes s.cfg s.mem base bytes } ∧
      ¬(s.cfg.reservedWrites = .fault ∧ touchesReserved base bytes.length = true)) ∨
    (s.store base bytes = s.halt .reservedWrite ∧ s.cfg.reservedWrites = .fault ∧
      touchesReserved base bytes.length = true) := by
  unfold State.store
  split
  · next h1 h2 => exact .inr ⟨rfl, h1, h2⟩
  · next h => exact .inl ⟨rfl, fun hc => h hc.1 hc.2⟩

/-! ## Timer and host -/

@[simp] theorem countDown_toNat (t : Byte) : (countDown t).toNat = t.toNat - 1 := by
  unfold countDown
  split
  · next h => simp [h]
  · next h =>
    have : t.toNat ≠ 0 := fun e => h (BitVec.eq_of_toNat_eq (by simpa using e))
    have := t.isLt
    rw [BitVec.toNat_sub]
    simp
    omega

/-- The machine is live exactly when it was started and is not halted. -/
theorem State.live_iff (s : State) : s.live = true ↔ s.phase = .started ∧ ∀ r, s.run ≠ .halted r := by
  unfold State.live
  cases s.phase <;> cases s.run <;> simp

/-! ## Pixels -/

theorem Framebuffer.pixel_blank (height row : Nat) (col : Fin 64) :
    (Framebuffer.blank height).pixel row col = false := by
  unfold Framebuffer.pixel
  split
  · next line h =>
    have : line = Vector.replicate 64 false := by
      simp only [Framebuffer.blank, List.getElem?_replicate] at h
      split at h
      · exact (Option.some.inj h).symm
      · cases h
    simp [this, Vector.get_eq_getElem]
  · rfl

@[simp] theorem Framebuffer.flip_length (fb : Framebuffer) (row : Nat) (col : Fin 64) :
    (fb.flip row col).length = fb.length := by
  simp [Framebuffer.flip]

/-- Flipping a pixel of the screen turns it over and leaves every other pixel alone. -/
theorem Framebuffer.pixel_flip (fb : Framebuffer) (row row' : Nat) (col col' : Fin 64) :
    (fb.flip row col).pixel row' col' =
      if row' = row ∧ col' = col ∧ row < fb.length then !fb.pixel row' col' else fb.pixel row' col' := by
  unfold Framebuffer.pixel Framebuffer.flip
  rw [List.getElem?_modify]
  by_cases hr : row = row'
  · subst hr
    cases hl : fb[row]? with
    | none =>
      have : ¬row < fb.length := by simpa using hl
      simp [this]
    | some line =>
      obtain ⟨hlt, -⟩ := List.getElem?_eq_some_iff.mp hl
      by_cases hc : col' = col
      · subst hc
        simp [hlt, Vector.get_eq_getElem]
      · have : col.val ≠ col'.val := fun e => hc (Fin.ext e.symm)
        simp [hc, this, Vector.get_eq_getElem]
  · have : ¬row' = row := fun e => hr e.symm
    simp only [hr, this, if_false, false_and]
    cases fb[row']? <;> rfl

theorem blitPixel_length (bit : Bool) (row : Nat) (col : Fin 64) (acc : Framebuffer × Bool) :
    (blitPixel bit row col acc).1.length = acc.1.length := by
  unfold blitPixel
  split <;> simp

theorem blitLine_length (px row : Nat) (b : Byte) (acc : Framebuffer × Bool) :
    (blitLine px row b acc).1.length = acc.1.length := by
  unfold blitLine
  generalize List.range 8 = l
  induction l generalizing acc with
  | nil => rfl
  | cons c l ih => rw [List.foldl_cons, ih, blitPixel_length]

theorem blitLines_length (height px py r : Nat) (bs : List Byte) (acc : Framebuffer × Bool) :
    (blitLines height px py r bs acc).1.length = acc.1.length := by
  induction bs generalizing r acc with
  | nil => rfl
  | cons b bs ih => rw [blitLines, ih, blitLine_length]

/-- The blit keeps the number of rows. -/
theorem blit_length (height px py : Nat) (sprite : List Byte) (fb : Framebuffer) :
    (blit height px py sprite fb).1.length = fb.length := blitLines_length ..

end Sys2Proof.Machine
end

