-- ==== Sys2Proof/Laws/PerInstr.lean ====
section
/-! SUPPORT. The statement made for every instruction: its word matches its own row of
spec/opcode_table.json, whose mask and match are written out here from the table. -/

namespace Sys2Proof.Laws.TableRow

/-- The row's mask (spec/opcode_table.json, "mask"); UNKNOWN has none. -/
def mask : Instr → Word
  | .cls => 0xFFFF
  | .ret => 0xFFFF
  | .sys _ => 0xF000
  | .jp _ => 0xF000
  | .call _ => 0xF000
  | .seVxKk _ _ => 0xF000
  | .sneVxKk _ _ => 0xF000
  | .seVxVy _ _ => 0xF00F
  | .ldVxKk _ _ => 0xF000
  | .addVxKk _ _ => 0xF000
  | .ldVxVy _ _ => 0xF00F
  | .or _ _ => 0xF00F
  | .and _ _ => 0xF00F
  | .xor _ _ => 0xF00F
  | .addVxVy _ _ => 0xF00F
  | .sub _ _ => 0xF00F
  | .shr _ => 0xF00F
  | .subn _ _ => 0xF00F
  | .shl _ => 0xF00F
  | .sneVxVy _ _ => 0xF00F
  | .ldIAddr _ => 0xF000
  | .jpV0Addr _ => 0xF000
  | .rnd _ _ => 0xF000
  | .drw _ _ _ => 0xF000
  | .skp _ => 0xF0FF
  | .sknp _ => 0xF0FF
  | .ldVxDt _ => 0xF0FF
  | .ldVxK _ => 0xF0FF
  | .ldDtVx _ => 0xF0FF
  | .ldStVx _ => 0xF0FF
  | .addIVx _ => 0xF0FF
  | .ldFVx _ => 0xF0FF
  | .ldBVx _ => 0xF0FF
  | .ldIVx _ => 0xF0FF
  | .ldVxI _ => 0xF0FF
  | .unknown _ => 0x0000

/-- The row's match (spec/opcode_table.json, "match"). -/
def pattern : Instr → Word
  | .cls => 0x00E0
  | .ret => 0x00EE
  | .sys _ => 0x0000
  | .jp _ => 0x1000
  | .call _ => 0x2000
  | .seVxKk _ _ => 0x3000
  | .sneVxKk _ _ => 0x4000
  | .seVxVy _ _ => 0x5000
  | .ldVxKk _ _ => 0x6000
  | .addVxKk _ _ => 0x7000
  | .ldVxVy _ _ => 0x8000
  | .or _ _ => 0x8001
  | .and _ _ => 0x8002
  | .xor _ _ => 0x8003
  | .addVxVy _ _ => 0x8004
  | .sub _ _ => 0x8005
  | .shr _ => 0x8006
  | .subn _ _ => 0x8007
  | .shl _ => 0x800E
  | .sneVxVy _ _ => 0x9000
  | .ldIAddr _ => 0xA000
  | .jpV0Addr _ => 0xB000
  | .rnd _ _ => 0xC000
  | .drw _ _ _ => 0xD000
  | .skp _ => 0xE09E
  | .sknp _ => 0xE0A1
  | .ldVxDt _ => 0xF007
  | .ldVxK _ => 0xF00A
  | .ldDtVx _ => 0xF015
  | .ldStVx _ => 0xF018
  | .addIVx _ => 0xF01E
  | .ldFVx _ => 0xF029
  | .ldBVx _ => 0xF033
  | .ldIVx _ => 0xF055
  | .ldVxI _ => 0xF065
  | .unknown _ => 0x0000

/-- The word of the instruction has the row's fixed bits. -/
def Statement (i : Instr) : Prop := encode i &&& mask i = pattern i

theorem nibble_and_ones (n : Nibble) : n &&& 15#4 = n := BitVec.and_allOnes

theorem byte_and_ones (b : Byte) : b &&& 255#8 = b := BitVec.and_allOnes

/-- Rows whose fixed bits are the high nibble, before an address. -/
theorem addr_row (op : Nibble) (addr : Addr) : encAddr op addr &&& 0xF000 = op ++ 0#12 := by
  rw [show (0xF000 : Word) = encAddr 0xF 0 by decide, encAddr_and]
  simp [encAddr, nibble_and_ones]

/-- Rows whose fixed bits are the high nibble, before a register and a byte. -/
theorem xkk_row (op x : Nibble) (kk : Byte) : encXkk op x kk &&& 0xF000 = op ++ 0#12 := by
  rw [show (0xF000 : Word) = encXkk 0xF 0 0 by decide, encXkk_and]
  simp [encXkk, nibble_and_ones]

/-- Rows whose fixed bits are the high nibble and the low byte. -/
theorem xkk_full_row (op x : Nibble) (kk : Byte) : encXkk op x kk &&& 0xF0FF = op ++ (0#4 ++ kk) := by
  rw [show (0xF0FF : Word) = encXkk 0xF 0 0xFF by decide, encXkk_and]
  simp [encXkk, nibble_and_ones, byte_and_ones]

/-- Rows whose fixed bits are the high and the low nibble. -/
theorem xyn_row (op x y n : Nibble) : encXyn op x y n &&& 0xF00F = op ++ (0#4 ++ (0#4 ++ n)) := by
  rw [show (0xF00F : Word) = encXyn 0xF 0 0 0xF by decide, encXyn_and]
  simp [encXyn, nibble_and_ones]

/-- The row of DRW, whose fixed bits are the high nibble. -/
theorem drw_row (op x y n : Nibble) : encXyn op x y n &&& 0xF000 = op ++ 0#12 := by
  rw [show (0xF000 : Word) = encXyn 0xF 0 0 0 by decide, encXyn_and]
  simp [encXyn, nibble_and_ones]

theorem cls : Statement .cls := by
  unfold Statement
  decide

theorem ret : Statement .ret := by
  unfold Statement
  decide

theorem sys (addr : Addr) : Statement (.sys addr) :=
  addr_row ..

theorem jp (addr : Addr) : Statement (.jp addr) :=
  addr_row ..

theorem call (addr : Addr) : Statement (.call addr) :=
  addr_row ..

theorem seVxKk (x : Nibble) (kk : Byte) : Statement (.seVxKk x kk) :=
  xkk_row ..

theorem sneVxKk (x : Nibble) (kk : Byte) : Statement (.sneVxKk x kk) :=
  xkk_row ..

theorem seVxVy (x y : Nibble) : Statement (.seVxVy x y) :=
  xyn_row ..

theorem ldVxKk (x : Nibble) (kk : Byte) : Statement (.ldVxKk x kk) :=
  xkk_row ..

theorem addVxKk (x : Nibble) (kk : Byte) : Statement (.addVxKk x kk) :=
  xkk_row ..

theorem ldVxVy (x y : Nibble) : Statement (.ldVxVy x y) :=
  xyn_row ..

theorem or (x y : Nibble) : Statement (.or x y) :=
  xyn_row ..

theorem and (x y : Nibble) : Statement (.and x y) :=
  xyn_row ..

theorem xor (x y : Nibble) : Statement (.xor x y) :=
  xyn_row ..

theorem addVxVy (x y : Nibble) : Statement (.addVxVy x y) :=
  xyn_row ..

theorem sub (x y : Nibble) : Statement (.sub x y) :=
  xyn_row ..

theorem shr (x : Nibble) : Statement (.shr x) :=
  xyn_row ..

theorem subn (x y : Nibble) : Statement (.subn x y) :=
  xyn_row ..

theorem shl (x : Nibble) : Statement (.shl x) :=
  xyn_row ..

theorem sneVxVy (x y : Nibble) : Statement (.sneVxVy x y) :=
  xyn_row ..

theorem ldIAddr (addr : Addr) : Statement (.ldIAddr addr) :=
  addr_row ..

theorem jpV0Addr (addr : Addr) : Statement (.jpV0Addr addr) :=
  addr_row ..

theorem rnd (x : Nibble) (kk : Byte) : Statement (.rnd x kk) :=
  xkk_row ..

theorem drw (x y n : Nibble) : Statement (.drw x y n) :=
  drw_row ..

theorem skp (x : Nibble) : Statement (.skp x) :=
  xkk_full_row ..

theorem sknp (x : Nibble) : Statement (.sknp x) :=
  xkk_full_row ..

theorem ldVxDt (x : Nibble) : Statement (.ldVxDt x) :=
  xkk_full_row ..

theorem ldVxK (x : Nibble) : Statement (.ldVxK x) :=
  xkk_full_row ..

theorem ldDtVx (x : Nibble) : Statement (.ldDtVx x) :=
  xkk_full_row ..

theorem ldStVx (x : Nibble) : Statement (.ldStVx x) :=
  xkk_full_row ..

theorem addIVx (x : Nibble) : Statement (.addIVx x) :=
  xkk_full_row ..

theorem ldFVx (x : Nibble) : Statement (.ldFVx x) :=
  xkk_full_row ..

theorem ldBVx (x : Nibble) : Statement (.ldBVx x) :=
  xkk_full_row ..

theorem ldIVx (x : Nibble) : Statement (.ldIVx x) :=
  xkk_full_row ..

theorem ldVxI (x : Nibble) : Statement (.ldVxI x) :=
  xkk_full_row ..

theorem unknown (w : Word) : Statement (.unknown w) := by simp [Statement, mask, pattern]

end Sys2Proof.Laws.TableRow
end

