-- ==== Sys2Proof/Laws/Step.lean ====
section
/-! SUPPORT. What a step can do, said once: whose turn it is, and the cases of a next state. -/

namespace Sys2Proof.Machine

theorem State.turnTaken_eq_self {s : State} (h : s.agenda = []) : s.turnTaken = s := by
  cases s
  cases h
  rfl

/-- When the engine is next, the step is the engine's turn. -/
theorem step_engineNext {s : State} (h : s.engineNext) : step s = engineTurn s.turnTaken := by
  obtain h | ⟨rest, h⟩ := h
  · rw [State.turnTaken_eq_self h, step, h]
  · rw [step, h, State.turnTaken, h]
    rfl

/-- When another agent is next, the step is that agent's turn. -/
theorem step_turn {s : State} {t : Turn} {rest : List Turn} (h : s.agenda = t :: rest) :
    step s = takeTurn t s.turnTaken := by
  rw [step, h, State.turnTaken, h]
  rfl

/-- The engine's turn steps only in a running machine, rests before start and in a wait, and faults when
halted. -/
theorem engineTurn_cases {s : State} {o : Host.Outcome State Fault Refusal} (h : engineTurn s = o) :
    (s.phase = .started ∧ s.run = .running ∧ o = exec (decode s.fetchWord) s.advance) ∨
    ((s.phase ≠ .started ∨ ∃ x, s.run = .waitingForKey x) ∧ o = .next s) ∨
    (s.phase = .started ∧ ∃ r, s.run = .halted r ∧ o = .fault (.halted r)) := by
  subst h
  unfold engineTurn
  cases hp : s.phase with
  | created => exact .inr (.inl ⟨.inl nofun, rfl⟩)
  | loadRejected => exact .inr (.inl ⟨.inl nofun, rfl⟩)
  | loaded => exact .inr (.inl ⟨.inl nofun, rfl⟩)
  | started =>
    cases hr : s.run with
    | running => exact .inl ⟨rfl, rfl, rfl⟩
    | waitingForKey x => exact .inr (.inl ⟨.inr ⟨x, rfl⟩, rfl⟩)
    | halted r => exact .inr (.inr ⟨rfl, r, rfl, rfl⟩)

/-- The outcome of a host's load. -/
theorem hostLoad_cases {s : State} {bytes : List Byte} {o : Host.Outcome State Fault Refusal}
    (h : hostLoad bytes s = o) :
    ((s.phase = .created ∨ s.phase = .loadRejected) ∧ o = .next (s.loadProgram bytes).1) ∨
    ((s.phase = .loaded ∨ s.phase = .started) ∧ o = .refused .loadOutsideContract) := by
  subst h
  unfold hostLoad
  cases s.phase <;> simp

/-- The outcome of a host's start. -/
theorem hostStart_cases {s : State} {o : Host.Outcome State Fault Refusal} (h : hostStart s = o) :
    (s.phase = .loaded ∧ o = .next { s with phase := .started, run := .running }) ∨
    (s.phase ≠ .loaded ∧ o = .refused .startOutsideContract) := by
  subst h
  unfold hostStart
  cases s.phase <;> simp

/-- A load either writes all its bytes and is accepted, or changes the phase alone. -/
theorem State.loadProgram_cases (s : State) (bytes : List Byte) :
    (bytes.length ≤ memSize - s.cfg.programStart.addr ∧
      s.loadProgram bytes = ({ s with mem := Memory.writeBytes s.cfg s.mem s.cfg.programStart.addr bytes,
                                      phase := .loaded }, .ok)) ∨
    (memSize - s.cfg.programStart.addr < bytes.length ∧
      s.loadProgram bytes = ({ s with phase := .loadRejected }, .capacityError)) := by
  unfold State.loadProgram Memory.load
  by_cases h : bytes.length > memSize - s.cfg.programStart.addr
  · exact .inr ⟨h, by rw [if_pos h]⟩
  · exact .inl ⟨by omega, by rw [if_neg h]⟩

/-- A key press either ends a wait or changes nothing. -/
theorem State.keyPress_cases (s : State) (k : Nibble) :
    (s.phase = .started ∧ ∃ x, s.run = .waitingForKey x ∧
      s.keyPress k = { s.setV x (k.setWidth 8) with run := .running }) ∨
    ((s.phase ≠ .started ∨ ∀ x, s.run ≠ .waitingForKey x) ∧ s.keyPress k = s) := by
  unfold State.keyPress State.live
  cases s.phase <;> cases s.run <;> simp

/-- The cases of a step that has a next state. -/
theorem step_next_cases {s t : State} (h : step s = .next t) :
    (s.engineNext ∧ engineTurn s.turnTaken = .next t) ∨ t = s.turnTaken.timerTick ∨
    (∃ k, t = s.turnTaken.keyPress k) ∨ t = s.turnTaken.stopRequest ∨
    (∃ bytes, (s.phase = .created ∨ s.phase = .loadRejected) ∧ t = (s.turnTaken.loadProgram bytes).1) ∨
    (s.phase = .loaded ∧ t = { s.turnTaken with phase := .started, run := .running }) := by
  cases ha : s.agenda with
  | nil => exact .inl ⟨.inl ha, by rw [← step_engineNext (.inl ha), h]⟩
  | cons u rest =>
    rw [step_turn ha] at h
    cases u with
    | engine => exact .inl ⟨.inr ⟨rest, ha⟩, h⟩
    | tick => exact .inr (.inl (Host.Outcome.next.inj h).symm)
    | keyPress k => exact .inr (.inr (.inl ⟨k, (Host.Outcome.next.inj h).symm⟩))
    | stop => exact .inr (.inr (.inr (.inl (Host.Outcome.next.inj h).symm)))
    | load bytes =>
      obtain ⟨hp, ho⟩ | ⟨-, ho⟩ := hostLoad_cases h
      · exact .inr (.inr (.inr (.inr (.inl ⟨bytes, hp, Host.Outcome.next.inj ho⟩))))
      · cases ho
    | start =>
      obtain ⟨hp, ho⟩ | ⟨-, ho⟩ := hostStart_cases h
      · exact .inr (.inr (.inr (.inr (.inr ⟨hp, Host.Outcome.next.inj ho⟩))))
      · cases ho

/-- A run takes its first step and goes on from there. -/
theorem run_step {s t : State} (h : step s = .next t) (k : Nat) :
    Sys2Proof.core.run (k + 1) s = Sys2Proof.core.run k t := by
  have h' : Sys2Proof.core.step s = Host.Outcome.next t := h
  simp only [Host.Core.run, h']

end Sys2Proof.Machine
end

