-- ==== Sys2Proof/Tests/Slice0.lean ====
section
/-! SUPPORT. The model's own tests. Decode tests use words written out from 30_encoding.md R74; each
instruction's test takes its expected result from spec/95_test_vectors.md (the vector is named) or from the
example in the instruction's rule. The last part shows, for every statement with hypotheses, operands and a state
that meet them. -/

namespace Sys2Proof.Tests
open Sys2Proof.Machine

/-! ## Helpers -/

/-- The created machine, loaded with nothing and started, at pc 0x200. -/
def base : State := { State.reset with phase := .started }

/-- The machine under policy `fault`. -/
def guarded : State := { base with cfg := { base.cfg with reservedWrites := .fault } }

/-- The machine with bytes in memory from `a` on, and I there. -/
def withBytes (a : Nat) (bytes : List Byte) : State :=
  { base with i := BitVec.ofNat 16 a, mem := Memory.writeBytes base.cfg [] a bytes }

def nextOf : Host.Outcome State Fault Refusal → Option State
  | .next t => some t
  | .fault _ => none
  | .refused _ => none

/-- The state after one step that runs the word `w`. -/
def after (s : State) (w : Nat) : Option State := nextOf (step (s.withFetchWord 16 w))

/-- The machine whose next turn is `u`. -/
def turn (s : State) (u : Turn) : Option State := nextOf (step { s with agenda := [u] })

/-! ## WellFormed: an ill-formed term for each check -/

theorem test_wf_refuses_sys_of_cls : (Instr.sys 0x0E0).wf = false := by decide
theorem test_wf_refuses_sys_of_ret : (Instr.sys 0x0EE).wf = false := by decide
theorem test_wf_refuses_unknown_of_jp : (Instr.unknown 0x1234).wf = false := by decide
theorem test_wf_refuses_unknown_of_shr : (Instr.unknown 0x8126).wf = false := by decide
theorem test_wf_accepts : (Instr.sys 0x0EF).wf = true ∧ (Instr.unknown 0x5121).wf = true := by decide

/-! ## Decoding: one word for each constructor -/

theorem test_decode_cls : decode 0b0000000011100000#16 = .cls := by decide
theorem test_decode_ret : decode 0b0000000011101110#16 = .ret := by decide
theorem test_decode_sys : decode 0b0000000100100011#16 = .sys 0x123 := by decide
theorem test_decode_jp : decode 0b0001101010111100#16 = .jp 0xABC := by decide
theorem test_decode_call : decode 0b0010001100000000#16 = .call 0x300 := by decide
theorem test_decode_seVxKk : decode 0b0011101001111111#16 = .seVxKk 0xA 0x7F := by decide
theorem test_decode_sneVxKk : decode 0b0100101001111111#16 = .sneVxKk 0xA 0x7F := by decide
theorem test_decode_seVxVy : decode 0b0101101010110000#16 = .seVxVy 0xA 0xB := by decide
theorem test_decode_ldVxKk : decode 0b0110101001000010#16 = .ldVxKk 0xA 0x42 := by decide
theorem test_decode_addVxKk : decode 0b0111000100100000#16 = .addVxKk 1 0x20 := by decide
theorem test_decode_ldVxVy : decode 0b1000000100100000#16 = .ldVxVy 1 2 := by decide
theorem test_decode_or : decode 0b1000000100100001#16 = .or 1 2 := by decide
theorem test_decode_and : decode 0b1000000100100010#16 = .and 1 2 := by decide
theorem test_decode_xor : decode 0b1000000100100011#16 = .xor 1 2 := by decide
theorem test_decode_addVxVy : decode 0b1000000100100100#16 = .addVxVy 1 2 := by decide
theorem test_decode_sub : decode 0b1000000100100101#16 = .sub 1 2 := by decide
theorem test_decode_shr : decode 0b1000000100100110#16 = .shr 1 := by decide
theorem test_decode_subn : decode 0b1000000100100111#16 = .subn 1 2 := by decide
theorem test_decode_shl : decode 0b1000000100101110#16 = .shl 1 := by decide
theorem test_decode_sneVxVy : decode 0b1001000100100000#16 = .sneVxVy 1 2 := by decide
theorem test_decode_ldIAddr : decode 0b1010001100000000#16 = .ldIAddr 0x300 := by decide
theorem test_decode_jpV0Addr : decode 0b1011001100000000#16 = .jpV0Addr 0x300 := by decide
theorem test_decode_rnd : decode 0b1100000100001111#16 = .rnd 1 0x0F := by decide
theorem test_decode_drw : decode 0b1101000100100101#16 = .drw 1 2 5 := by decide
theorem test_decode_skp : decode 0b1110001110011110#16 = .skp 3 := by decide
theorem test_decode_sknp : decode 0b1110001110100001#16 = .sknp 3 := by decide
theorem test_decode_ldVxDt : decode 0b1111010100000111#16 = .ldVxDt 5 := by decide
theorem test_decode_ldVxK : decode 0b1111001100001010#16 = .ldVxK 3 := by decide
theorem test_decode_ldDtVx : decode 0b1111000100010101#16 = .ldDtVx 1 := by decide
theorem test_decode_ldStVx : decode 0b1111000100011000#16 = .ldStVx 1 := by decide
theorem test_decode_addIVx : decode 0b1111001000011110#16 = .addIVx 2 := by decide
theorem test_decode_ldFVx : decode 0b1111010000101001#16 = .ldFVx 4 := by decide
theorem test_decode_ldBVx : decode 0b1111000000110011#16 = .ldBVx 0 := by decide
theorem test_decode_ldIVx : decode 0b1111001001010101#16 = .ldIVx 2 := by decide
theorem test_decode_ldVxI : decode 0b1111001001100101#16 = .ldVxI 2 := by decide
theorem test_decode_unknown : decode 0b0101000100100001#16 = .unknown 0x5121 := by decide
/-- X4 -/
theorem test_decode_more_unknown : [0x800F, 0x8008, 0x9011, 0xE000, 0xE09F, 0xF000, 0xF0FF, 0xFF16].all
    (fun w => decide (decode (BitVec.ofNat 16 w) = .unknown (BitVec.ofNat 16 w))) = true := by decide
theorem test_decode_bytes : decodeBytes [0x60, 0x42, 0x99] = .ok (.ldVxKk 0 0x42, [0x99]) := by rfl
theorem test_decode_one_byte : decodeBytes [0x60] = .error .tooFewBytes := by rfl
theorem test_decode_table_word : decodeTableWord 16 0xF265 = some (.ldVxI 2) := by decide

/-! ## Control transfer -/

/-- C7 -/
theorem test_ret : (after { base with sp := 1, stack := base.stack.set 0 0x202, pc := 0x400 } 0x00EE).map
    (fun t => (t.pc, t.sp, t.stack.get 0)) = some (0x202, 0, 0x202) := by decide
/-- C8 -/
theorem test_ret_underflow : (after { base with pc := 0x400 } 0x00EE).map (fun t => (t.pc, t.sp, t.run)) =
    some (0x402, 0, .halted .stackUnderflow) := by decide
/-- C1 -/
theorem test_jp : (after base 0x1ABC).map (·.pc) = some 0xABC := by decide
/-- C6 -/
theorem test_call_wraps : (after { base with pc := 0xFFE } 0x2FFE).map (fun t => (t.stack.get 0, t.sp, t.pc)) =
    some (0x000, 1, 0xFFE) := by decide
/-- C5 -/
theorem test_call_overflow : (after { base with pc := 0x300, sp := 16 } 0x2400).map
    (fun t => (t.pc, t.sp, t.run)) = some (0x302, 16, .halted .stackOverflow) := by decide
/-- C9 -/
theorem test_se_byte : (after (base.setV 0xA 0x7F) 0x3A7F).map (·.pc) = some 0x204 := by decide
/-- C17 -/
theorem test_se_byte_wraps : (after { base with pc := 0xFFC } 0x3000).map (·.pc) = some 0x000 := by decide
/-- C11 -/
theorem test_sne_byte : (after (base.setV 0xA 0x7F) 0x4A7F).map (·.pc) = some 0x202 := by decide
/-- C13 -/
theorem test_se_reg : (after ((base.setV 0xA 0x33).setV 0xB 0x33) 0x5AB0).map (·.pc) = some 0x204 := by decide
/-- C15 -/
theorem test_sne_reg : (after ((base.setV 0xA 0x33).setV 0xB 0x34) 0x9AB0).map (·.pc) = some 0x204 := by decide
/-- C19 -/
theorem test_jp_v0_wraps : (after (base.setV 0 0xFF) 0xBFFF).map (·.pc) = some 0x0FE := by decide

/-! ## ALU -/

/-- A1 -/
theorem test_ld_byte : (after base 0x6A5C).map (·.getV 0xA) = some 0x5C := by decide
/-- A2 -/
theorem test_add_byte : (after ((base.setV 0xA 1).setV 0xF 7) 0x7AFF).map (fun t => (t.getV 0xA, t.getV 0xF)) =
    some (0x00, 0x07) := by decide
/-- A4 -/
theorem test_ld_reg : (after (base.setV 0xB 0x9C) 0x8AB0).map (·.getV 0xA) = some 0x9C := by decide
/-- A5 -/
theorem test_or : (after (((base.setV 0 0x0F).setV 1 0xF0).setV 0xF 5) 0x8011).map
    (fun t => (t.getV 0, t.getV 0xF)) = some (0xFF, 0x05) := by decide
/-- A6 -/
theorem test_and : (after ((base.setV 0 0x3C).setV 1 0x0F) 0x8012).map (·.getV 0) = some 0x0C := by decide
/-- A7 -/
theorem test_xor : (after ((base.setV 0 0xFF).setV 1 0x0F) 0x8013).map (·.getV 0) = some 0xF0 := by decide
/-- W2 -/
theorem test_add_carry : (after ((base.setV 0 0xFF).setV 1 0x01) 0x8014).map (fun t => (t.getV 0, t.getV 0xF)) =
    some (0x00, 1) := by decide
/-- A31 -/
theorem test_add_into_vf : (after ((base.setV 0xF 0xFF).setV 1 0x02) 0x8F14).map (·.getV 0xF) = some 0x01 := by
  decide
/-- W5 -/
theorem test_sub_borrow : (after ((base.setV 0 3).setV 1 5) 0x8015).map (fun t => (t.getV 0, t.getV 0xF)) =
    some (0xFE, 0) := by decide
/-- A39 -/
theorem test_sub_vf_operand : (after ((base.setV 1 0x10).setV 0xF 1) 0x81F5).map
    (fun t => (t.getV 1, t.getV 0xF)) = some (0x0F, 1) := by decide
/-- A24 -/
theorem test_shr_ignores_y : (after ((base.setV 0 4).setV 1 0xFF) 0x8016).map (fun t => (t.getV 0, t.getV 0xF)) =
    some (2, 0) := by decide
/-- A35 -/
theorem test_shr_vf : (after (base.setV 0xF 7) 0x8F06).map (·.getV 0xF) = some 3 := by decide
/-- A17 -/
theorem test_subn : (after ((base.setV 0 5).setV 1 3) 0x8017).map (fun t => (t.getV 0, t.getV 0xF)) =
    some (0xFE, 0) := by decide
/-- A18 -/
theorem test_subn_equal : (after ((base.setV 0 5).setV 1 5) 0x8017).map (fun t => (t.getV 0, t.getV 0xF)) =
    some (0, 1) := by decide
/-- A25 -/
theorem test_shl : (after (base.setV 0 0x81) 0x800E).map (fun t => (t.getV 0, t.getV 0xF)) = some (2, 1) := by
  decide
/-- A46 -/
theorem test_rnd : (after { base with randoms := [0xAB] } 0xC30F).map (fun t => (t.getV 3, t.randoms)) =
    some (0x0B, []) := by decide

/-! ## Index register and memory -/

/-- M1 -/
theorem test_ld_i : (after base 0xA123).map (·.i) = some 0x123 := by decide
/-- M4 -/
theorem test_add_i_wraps : (after ({ base with i := 0xFF0 }.setV 2 0xFF) 0xF21E).map
    (fun t => (t.i, t.getV 0xF)) = some (0x0EF, 0) := by decide
/-- M10 -/
theorem test_ld_f_low_nibble : (after (base.setV 0 0x1A) 0xF029).map (·.i) = some 0x032 := by decide
/-- M12 -/
theorem test_ld_f_other_base : (after ({ base with cfg := { base.cfg with fontBase := 0x050 } }.setV 0 5)
    0xF029).map (·.i) = some 0x069 := by decide
/-- W9 -/
theorem test_ld_b : (after ({ base with i := 0x300 }.setV 0 234) 0xF033).map (fun t => (t.readBytes 0x300 3, t.i)) =
    some ([2, 3, 4], 0x300) := by decide
/-- M14 -/
theorem test_ld_b_wraps : (after ({ base with i := 0xFFE }.setV 0 0xFF) 0xF033).map (·.readBytes 0xFFE 3) =
    some [2, 5, 5] := by decide
/-- M20 -/
theorem test_store_perform : (after (({ base with i := 0x1FF }.setV 0 1).setV 1 2) 0xF155).map
    (·.readBytes 0x1FF 2) = some [1, 2] := by decide
/-- M21 -/
theorem test_store_fault : (after (({ guarded with i := 0x1FF, pc := 0x300 }.setV 0 1).setV 1 2) 0xF155).map
    (fun t => (t.run, t.readBytes 0x1FF 2, t.pc)) = some (.halted .reservedWrite, [0, 0], 0x302) := by decide
/-- M18 -/
theorem test_load_regs : (after (withBytes 0x400 [0xAA, 0xBB, 0xCC, 0xDD]) 0xF265).map
    (fun t => (t.regsUpTo 3, t.i)) = some ([0xAA, 0xBB, 0xCC, 0], 0x400) := by decide
/-- M22: the wrapped reads see the font -/
theorem test_load_regs_wraps : (after (withBytes 0xFFF [1]) 0xF265).map (·.regsUpTo 2) = some [1, 0xF0, 0x90] := by decide

/-! ## Display, keypad, timers -/

/-- D1 -/
theorem test_cls : (after { base with fb := base.fb.flip 3 5 } 0x00E0).map (fun t => (t.fb.pixel 3 5, t.fb.length)) =
    some (false, 32) := by decide
/-- W14: columns 60 to 63, then 0 to 3 -/
theorem test_drw_wraps : (after ((withBytes 0x300 [0xFF]).setV 0 60) 0xD011).map
    (fun t => ((List.finRange 64).filter (fun c => t.fb.pixel 0 c), t.getV 0xF)) =
    some ([0, 1, 2, 3, 60, 61, 62, 63], 0) := by decide
/-- D7: both coordinates are the old VF; and D8, drawn over a lit pixel -/
theorem test_drw_old_vf_and_collision :
    (after ((withBytes 0x300 [0x80]).setV 0xF 8) 0xDFF1).map
      (fun t => (t.fb.pixel 8 8, t.getV 0xF)) = some (true, 0) ∧
    (after { withBytes 0x300 [0x80] with fb := base.fb.flip 0 0 } 0xD011).map
      (fun t => (t.fb.pixel 0 0, t.getV 0xF)) = some (false, 1) := by decide
/-- D11 -/
theorem test_skp : (after ({ base with keypads := [[7]] }.setV 3 0x17) 0xE39E).map (fun t => (t.pc, t.keypads)) =
    some (0x204, []) := by decide
/-- D12 -/
theorem test_sknp : (after ({ base with keypads := [[7]] }.setV 3 7) 0xE3A1).map (·.pc) = some 0x202 := by decide
/-- D14 -/
theorem test_ld_vx_dt : (after { base with dt := 0x3A } 0xF507).map (·.getV 5) = some 0x3A := by decide
/-- D18 -/
theorem test_ld_vx_k : (after base 0xF30A).map (fun t => (t.pc, t.run, t.getV 3)) =
    some (0x202, .waitingForKey 3, 0) := by decide
/-- D15 -/
theorem test_ld_dt_vx : (after (base.setV 5 0x80) 0xF515).map (·.dt) = some 0x80 := by decide
/-- D16 -/
theorem test_ld_st_vx : (after (base.setV 5 2) 0xF518).map (fun t => (t.st, t.tone)) = some (2, true) := by decide

/-! ## SYS, unknown words, fetch -/

/-- X3 -/
theorem test_sys : (after base 0x0123).map (fun t => (t.pc, t.log)) = some (0x202, []) := by decide
/-- W1 -/
theorem test_unknown : (after base 0x5121).map (fun t => (t.pc, t.log)) =
    some (0x202, [.unknownOpcode 0x200 0x5121]) := by decide
/-- X7 -/
theorem test_fetch_wraps : (nextOf (step { base with pc := 0xFFF, mem := [(0x000, 0x34), (0xFFF, 0x12)] })).map
    (·.pc) = some 0x234 := by decide

/-! ## The timer and the host -/

/-- D17 -/
theorem test_tick : (turn { base with st := 5 } .tick).map (fun t => (t.dt, t.st)) = some (0, 4) := by decide
/-- D22 and D23 -/
theorem test_tick_wait_and_halted :
    (turn { base with run := .waitingForKey 3, dt := 1 } .tick).map (·.dt) = some 0 ∧
    (turn { base with run := .halted .stackOverflow, dt := 5 } .tick).map (·.dt) = some 5 := by decide
/-- D19 -/
theorem test_key_press : (turn { base with run := .waitingForKey 3 } (.keyPress 0xC)).map
    (fun t => (t.getV 3, t.run)) = some (0x0C, .running) := by decide
/-- D20 -/
theorem test_key_press_running : turn base (.keyPress 0xC) = some base := by decide
/-- H2 -/
theorem test_stop_in_wait : (turn { base with run := .waitingForKey 2 } .stop).map (·.run) =
    some (.halted .stopRequested) := by decide
/-- H5 -/
theorem test_load : (turn State.reset (.load [0x12, 0x34])).map (fun t => (t.readBytes 0x200 2, t.phase)) =
    some ([0x12, 0x34], .loaded) := by decide
/-- H3: the engine of a halted machine has no step -/
theorem test_halted_has_no_step : step { base with run := .halted .stackUnderflow } =
    .fault (.halted .stackUnderflow) := rfl
/-- 60_exceptions.md R266: start comes after a successful load -/
theorem test_start_before_load : step { State.reset with agenda := [.start] } = .refused .startOutsideContract :=
  rfl

/-! ## Operands and states that meet the hypotheses of the statements -/

theorem base_inv : base.Inv where
  config  := by decide
  index   := by decide
  counter := by decide
  slots   := by decide
  memory  := by decide
  screen  := by decide

/-- A state about to run `w` at its pc. -/
def at_ (s : State) (w : Nat) : State := { s with mem := (s.withFetchWord 16 w).mem }

theorem base_runs : base.runs := ⟨rfl, rfl⟩

theorem witness_CreationSetsEveryField : Config.standard.wf ∧ (0x004 : Nat) < 0x1000 ∧ (0x050 : Nat) < 0x1000 := by
  decide
theorem witness_CreationMeetsInvariant : Config.wf { Config.standard with programStart := .at600 } := by decide
theorem witness_EveryStepKeepsInvariant : ∃ s t : State, s.Inv ∧ step s = .next t := ⟨base, _, base_inv, rfl⟩
theorem witness_StepExecutesTheDecodedWord : ∃ s : State, s.engineNext ∧ s.runs := ⟨base, .inl rfl, base_runs⟩
theorem witness_engineNext_by_turn : { base with agenda := [.engine, .tick] }.engineNext := .inr ⟨_, rfl⟩
theorem witness_PlacedWordIsExecuted : Memory.wf base.cfg base.mem = true := by decide
theorem witness_DecodeOfEncodeIsIdentity : (Instr.drw 1 2 5).wf = true := by decide

theorem witness_RetPopsOrUnderflows : (∃ s : State, 0 < s.sp.val) ∧ ∃ s : State, s.sp.val = 0 :=
  ⟨⟨{ base with sp := 16 }, by decide⟩, ⟨base, rfl⟩⟩
theorem witness_CallPushesOrOverflows : (∃ s : State, s.sp.val < 16) ∧ ∃ s : State, s.sp.val = 16 :=
  ⟨⟨{ base with sp := 15 }, by decide⟩, ⟨{ base with sp := 16 }, rfl⟩⟩
theorem witness_SkipStepsAdvanceByFourOrTwo_byte : ∃ (s t : State) (c : Bool), s.engineNext ∧ s.runs ∧
    (∃ x kk, decode s.fetchWord = .seVxKk x kk ∧ c = decide (s.getV x = kk)) ∧ step s = .next t :=
  ⟨at_ base 0x3000, _, true, .inl rfl, base_runs, ⟨0, 0, by decide, by decide⟩, rfl⟩
theorem witness_SkipStepsAdvanceByFourOrTwo_byteNot : ∃ (s t : State) (c : Bool), s.engineNext ∧ s.runs ∧
    (∃ x kk, decode s.fetchWord = .sneVxKk x kk ∧ c = decide (s.getV x ≠ kk)) ∧ step s = .next t :=
  ⟨at_ base 0x4001, _, true, .inl rfl, base_runs, ⟨0, 1, by decide, by decide⟩, rfl⟩
theorem witness_SkipStepsAdvanceByFourOrTwo_regs : ∃ (s t : State) (c : Bool), s.engineNext ∧ s.runs ∧
    (∃ x y, decode s.fetchWord = .seVxVy x y ∧ c = decide (s.getV x = s.getV y)) ∧ step s = .next t :=
  ⟨at_ base 0x5120, _, true, .inl rfl, base_runs, ⟨1, 2, by decide, by decide⟩, rfl⟩
theorem witness_SkipStepsAdvanceByFourOrTwo_regsNot : ∃ (s t : State) (c : Bool), s.engineNext ∧ s.runs ∧
    (∃ x y, decode s.fetchWord = .sneVxVy x y ∧ c = decide (s.getV x ≠ s.getV y)) ∧ step s = .next t :=
  ⟨at_ base 0x9120, _, false, .inl rfl, base_runs, ⟨1, 2, by decide, by decide⟩, rfl⟩
theorem witness_SkipStepsAdvanceByFourOrTwo_down : ∃ (s t : State) (c : Bool), s.engineNext ∧ s.runs ∧
    (∃ x, decode s.fetchWord = .skp x ∧ c = s.keyDown (nib (s.getV x))) ∧ step s = .next t :=
  ⟨at_ { base with keypads := [[0]] } 0xE39E, _, true, .inl rfl, base_runs, ⟨3, by decide, by decide⟩, rfl⟩
theorem witness_SkipStepsAdvanceByFourOrTwo_up : ∃ (s t : State) (c : Bool), s.engineNext ∧ s.runs ∧
    (∃ x, decode s.fetchWord = .sknp x ∧ c = !s.keyDown (nib (s.getV x))) ∧ step s = .next t :=
  ⟨at_ { base with keypads := [[0]] } 0xE3A1, _, false, .inl rfl, base_runs, ⟨3, by decide, by decide⟩, rfl⟩
theorem witness_CallThenRetComesBack : ∃ (s : State) (addr : Addr), s.agenda = [] ∧ s.runs ∧ s.sp.val < 16 ∧
    decode s.fetchWord = .call addr ∧ s.readByte addr.toNat = 0x00 ∧ s.readByte (addr.toNat + 1) = 0xEE :=
  ⟨{ base with mem := [(0x200, 0x23), (0x301, 0xEE)] }, 0x300, rfl, base_runs, by decide, by decide, by decide,
    by decide⟩
theorem witness_SeventeenthNestedCallHalts : ∃ s : State, s.agenda = [] ∧ s.runs ∧ s.sp.val = 0 ∧
    s.pc.toNat < 0x1000 ∧ s.fetchWord.toNat = 0x2000 + s.pc.toNat :=
  ⟨at_ base 0x2200, rfl, base_runs, rfl, by decide, by decide⟩

theorem witness_AddSetsCarry : ∃ x z : Nibble, x ≠ 0xF ∧ z ≠ x ∧ z ≠ 0xF := ⟨0, 1, by decide⟩
theorem witness_RndMasksTheDraw : ∃ (s : State) (r : Byte) (rest : List Byte), s.randoms = r :: rest :=
  ⟨{ base with randoms := [0xAB] }, 0xAB, [], rfl⟩
theorem witness_LdFPointsAtTheGlyph : base.cfg.wf := by decide

theorem witness_LdBStoresTheDigits :
    (Memory.wf guarded.cfg guarded.mem = true ∧ ¬{ guarded with i := 0x200 }.storeHalts 0x200 3) ∧
    { guarded with i := 0xFFE }.storeHalts 0xFFE 3 :=
  ⟨⟨by decide, fun h => absurd h.2 (by decide)⟩, rfl, 2, by decide⟩
theorem witness_LdIVxStoresTheRegisters :
    (Memory.wf guarded.cfg guarded.mem = true ∧ ¬{ guarded with i := 0x200 }.storeHalts 0x200 16) ∧
    { guarded with i := 0x1FF }.storeHalts 0x1FF 2 ∧ ¬base.storeHalts 0x1FF 2 :=
  ⟨⟨by decide, fun h => absurd h.2 (by decide)⟩, ⟨rfl, 0, by decide⟩, fun h => absurd h.1 (by decide)⟩
theorem witness_StoredRegistersLoadBack : ∃ (s t u : State) (v : Vector Byte 16), Memory.wf s.cfg s.mem = true ∧
    ¬s.storeHalts s.i.toNat 16 ∧ exec (.ldIVx 0xF) s = .next t ∧ exec (.ldVxI 0xF) { t with v := v } = .next u :=
  ⟨{ base with i := 0x400 }, _, _, Vector.replicate 16 7, by decide, fun h => absurd h.1 (by decide), rfl, rfl⟩
theorem witness_StoreIsSeenByTheNextFetch : ∃ s t : State, Memory.wf s.cfg s.mem = true ∧ s.agenda = [] ∧ s.runs ∧
    decode s.fetchWord = .ldIVx 1 ∧ 1 ≤ (1 : Nibble).toNat ∧ s.i.toNat = (s.pc.toNat + 2) % 0x1000 ∧
    ¬s.storeHalts s.i.toNat 2 ∧ step s = .next t :=
  ⟨at_ { base with i := 0x202 } 0xF155, _, by decide, rfl, base_runs, by decide, by decide, by decide,
    fun h => absurd h.1 (by decide), rfl⟩

theorem witness_DrwTurnsTouchedPixelsOver : ∃ s : State, s.Inv ∧ s.spriteHits 0 1 0 0 0 = true ∧
    s.fb.pixel 0 0 = false := ⟨base, base_inv, by decide, by decide⟩
theorem witness_DrwFlagTellsAnErasedPixel : ∃ s t : State, s.Inv ∧ (5 : Nibble).toNat ≤ s.cfg.displayHeight ∧
    exec (.drw 0 1 5) s = .next t := ⟨base, _, base_inv, by decide, rfl⟩
theorem witness_DrawingTwiceErases : ∃ s t u : State, exec (.drw 0 1 5) s = .next t ∧ t.getV 0 = s.getV 0 ∧
    t.getV 1 = s.getV 1 ∧ exec (.drw 0 1 5) t = .next u ∧ t.fb ≠ s.fb :=
  ⟨base, _, _, rfl, by decide, by decide, rfl, by decide⟩
theorem witness_KeySkipsPollTheLowNibble : ∃ (s : State) (down : List Nibble) (rest : List (List Nibble)),
    s.keypads = down :: rest := ⟨{ base with keypads := [[7]] }, [7], [], rfl⟩
theorem witness_KeyPressEndsAWait : (∃ s : State, s.agenda = [.keyPress 7] ∧ s.phase = .started ∧
    s.run = .waitingForKey 3) ∧ ∃ s : State, s.agenda = [.keyPress 7] ∧ s.phase = .started ∧
    ∀ x, s.run ≠ .waitingForKey x :=
  ⟨⟨{ base with agenda := [.keyPress 7], run := .waitingForKey 3 }, rfl, rfl, rfl⟩,
   ⟨{ base with agenda := [.keyPress 7] }, rfl, rfl, nofun⟩⟩
theorem witness_TickCountsBothTimersDown : (∃ s : State, s.agenda = [.tick] ∧ s.phase = .started ∧
    ∀ r, s.run ≠ .halted r) ∧ ∃ s : State, s.agenda = [.tick] ∧ ¬(s.phase = .started ∧ ∀ r, s.run ≠ .halted r) :=
  ⟨⟨{ base with agenda := [.tick], dt := 2 }, rfl, rfl, nofun⟩,
   ⟨{ State.reset with agenda := [.tick] }, rfl, nofun⟩⟩
theorem witness_TicksNeverGoBelowZero : ∃ s : State, s.agenda = List.replicate 3 .tick ∧ s.phase = .started ∧
    (∀ r, s.run ≠ .halted r) ∧ s.dt = 2 :=
  ⟨{ base with agenda := [.tick, .tick, .tick], dt := 2 }, rfl, rfl, nofun, rfl⟩
theorem witness_ToneFollowsST : ∃ s t : State, exec (.ldStVx 1) s = .next t := ⟨base, _, rfl⟩

theorem witness_UnknownWordIsLoggedAndSkipped : ∃ (s : State) (w : Word), s.engineNext ∧ s.runs ∧
    decode s.fetchWord = .unknown w := ⟨at_ base 0x5121, 0x5121, .inl rfl, base_runs, by decide⟩
theorem witness_StepStopsOnlyWhenHaltedOrMisused :
    step { base with run := .halted .stackOverflow } = .fault (.halted .stackOverflow) ∧
    step { base with agenda := [.load []] } = .refused .loadOutsideContract ∧
    step { base with agenda := [.start] } = .refused .startOutsideContract := ⟨rfl, rfl, rfl⟩
theorem witness_HaltedIsTerminal : ∃ s t : State, s.phase = .started ∧ s.run = .halted .stopRequested ∧
    step s = .next t := ⟨{ base with run := .halted .stopRequested, agenda := [.tick] }, _, rfl, rfl, rfl⟩
theorem witness_HaltedIsTerminal_engine : ∃ s : State, s.phase = .started ∧ s.run = .halted .stopRequested ∧
    s.engineNext := ⟨{ base with run := .halted .stopRequested }, rfl, rfl, .inl rfl⟩
theorem witness_EngineRestsInWaitAndBeforeStart : (∃ s : State, s.engineNext ∧ s.phase ≠ .started) ∧
    ∃ s : State, s.engineNext ∧ ∃ x, s.run = .waitingForKey x :=
  ⟨⟨State.reset, .inl rfl, nofun⟩, ⟨{ base with run := .waitingForKey 3 }, .inl rfl, 3, rfl⟩⟩
theorem witness_NothingIsTakenBeforeStart : ∃ s : State, s.phase ≠ .started ∧ s.agenda = [.stop] :=
  ⟨{ State.reset with agenda := [.stop] }, nofun, rfl⟩
theorem witness_StopRequestHalts : (∃ s : State, s.agenda = [.stop] ∧ s.phase = .started ∧
    ∀ r, s.run ≠ .halted r) ∧ ∃ s : State, s.agenda = [.stop] ∧ s.phase = .started ∧
    s.run = .halted .stackOverflow :=
  ⟨⟨{ base with agenda := [.stop] }, rfl, rfl, nofun⟩,
   ⟨{ base with agenda := [.stop], run := .halted .stackOverflow }, rfl, rfl, rfl⟩⟩
/-- W15: 3584 bytes fit at 0x200 and 3585 do not. -/
theorem witness_LoadProgramStoresAllOrNothing : ∃ s : State, (s.phase = .created ∨ s.phase = .loadRejected) ∧
    Memory.wf s.cfg s.mem = true ∧ (List.replicate 3584 (1 : Byte)).length ≤ 0x1000 - s.cfg.programStart.addr ∧
    0x1000 - s.cfg.programStart.addr < (List.replicate 3585 (1 : Byte)).length :=
  ⟨State.reset, .inl rfl, rfl, by rw [List.length_replicate]; decide, by rw [List.length_replicate]; decide⟩
theorem witness_BootReachesTheFirstWord : Config.standard.wf ∧
    ([0x12, 0x00] : List Byte).length ≤ 0x1000 - Config.standard.programStart.addr := by decide
theorem witness_SelfJumpStepChangesNothing : ∃ s : State, s.runs ∧ s.agenda = [] ∧ s.pc.toNat < 0x1000 ∧ s.ended :=
  ⟨at_ base 0x1200, base_runs, rfl, by decide, .inr ⟨rfl, by decide⟩⟩
theorem witness_OnlyTheListedInstructionsWrite : ∃ s t : State, exec .cls s = .next t ∧ writesReg .cls 0xF = false ∧
    writesIndex .cls = false ∧ writesPc .cls = false ∧ writesStack .cls = false ∧ writesMemory .cls = false ∧
    writesRun .cls = false ∧ writesScreen (.sys 0x123) = false := ⟨base, _, rfl, by decide⟩
theorem witness_HaltingInstructionsWriteNothingElse : ∃ s t : State, exec .ret s = .next t ∧ s.run = .running ∧
    t.run = .halted .stackUnderflow := ⟨base, _, rfl, rfl, rfl⟩
theorem witness_StepsKeepConfigLogAndStart : ∃ s t : State, step s = .next t ∧ s.phase = .started ∧ t.log ≠ s.log :=
  ⟨at_ base 0x5121, _, rfl, rfl, by decide⟩
theorem witness_LogAffectsNoStep : ∃ s t : State, step s = .next t ∧ t.log ≠ s.log :=
  ⟨at_ base 0x5121, _, rfl, by decide⟩
theorem witness_SlotsAboveSPAreHidden : ∃ (s t : State) (k : Vector Word 16), k ≠ s.stack ∧
    (∀ j : Fin 16, j.val < s.sp.val → k.get j = s.stack.get j) ∧ step s = .next t :=
  ⟨at_ { base with sp := 1 } 0x00EE, _, base.stack.set 3 0x999, by decide, by decide, rfl⟩

end Sys2Proof.Tests
end

section
/-! Control transfer (41_control_flow.md): what a jump does to the state. -/

namespace Sys2Proof.Machine

/-- A 12-bit address field is its own `Mask12` (R8, decision D1). -/
theorem mask12_toNat_addr (addr : Addr) : (mask12 addr.toNat).toNat = addr.toNat := by
  rw [mask12_toNat, Nat.mod_eq_of_lt addr.isLt]

/-- Moving pc writes no other field. -/
theorem State.setPc_frame (s : State) (a : Nat) : s.setPc a = { s with pc := (s.setPc a).pc } := rfl

@[simp] theorem State.readByte_setPc (s : State) (a b : Nat) : (s.setPc a).readByte b = s.readByte b := rfl

theorem State.sameBytes_setPc (s : State) (a : Nat) : s.sameBytes (s.setPc a) := s.readByte_setPc a

@[simp] theorem exec_jp (addr : Addr) (s : State) : exec (.jp addr) s = .next (s.setPc addr.toNat) := rfl

/-- Settles O12: JP is one masked write of pc, and the mask keeps a 12-bit address as it is. -/
theorem jpSetsPc : Obligations.JpSetsPc := by
  intro addr s
  have hpc : (s.setPc addr.toNat).pc.toNat = addr.toNat := mask12_toNat_addr addr
  exact ⟨s.setPc addr.toNat, exec_jp addr s, hpc, s.setPc_frame _, s.sameBytes_setPc _⟩

end Sys2Proof.Machine
end

section
/-! Loads, arithmetic and logic (42_alu.md): what a register write and a flag write with its result leave
alone, and what each instruction writes. -/

namespace Sys2Proof.Machine

/-! ## One register -/

theorem State.sameBytes_setV (s : State) (x : Nibble) (b : Byte) : s.sameBytes (s.setV x b) := fun _ => rfl

/-- Writing Vx leaves every other register, every other field and every byte of memory as it was. -/
theorem State.setV_writes_only_Vx (s : State) (x : Nibble) (b : Byte) :
    (∀ z ≠ x, (s.setV x b).getV z = s.getV z) ∧ s.setV x b = { s with v := (s.setV x b).v } ∧
      s.sameBytes (s.setV x b) :=
  ⟨fun _ hz => s.getV_setV_other hz b, s.setV_frame x b, s.sameBytes_setV x b⟩

@[simp] theorem exec_ldVxKk (x : Nibble) (kk : Byte) (s : State) :
    exec (.ldVxKk x kk) s = .next (s.setV x kk) := rfl

@[simp] theorem exec_ldVxVy (x y : Nibble) (s : State) :
    exec (.ldVxVy x y) s = .next (s.setV x (s.getV y)) := rfl

@[simp] theorem exec_addVxKk (x : Nibble) (kk : Byte) (s : State) :
    exec (.addVxKk x kk) s = .next (s.setV x (s.getV x + kk)) := rfl

@[simp] theorem exec_or (x y : Nibble) (s : State) :
    exec (.or x y) s = .next (s.setV x (s.getV x ||| s.getV y)) := rfl

@[simp] theorem exec_and (x y : Nibble) (s : State) :
    exec (.and x y) s = .next (s.setV x (s.getV x &&& s.getV y)) := rfl

@[simp] theorem exec_xor (x y : Nibble) (s : State) :
    exec (.xor x y) s = .next (s.setV x (s.getV x ^^^ s.getV y)) := rfl

/-- Settles O20: each load is one write of Vx. -/
theorem loadsSetVx : Obligations.LoadsSetVx := by
  intro x y kk s
  constructor
  · exact ⟨s.setV x kk, exec_ldVxKk x kk s, s.getV_setV_same x kk, s.setV_writes_only_Vx x kk⟩
  · exact ⟨s.setV x (s.getV y), exec_ldVxVy x y s, s.getV_setV_same x _, s.setV_writes_only_Vx x _⟩

/-- Settles O21: one write of Vx with the byte sum, which wraps; VF is another register unless `x = F`. -/
theorem addByteWrapsWithoutFlag : Obligations.AddByteWrapsWithoutFlag := by
  intro x kk s
  refine ⟨s.setV x (s.getV x + kk), exec_addVxKk x kk s, ?_, s.setV_writes_only_Vx x _⟩
  rw [State.getV_setV_same, BitVec.toNat_add]

/-- Settles O22: one write of Vx with the bitwise result, read off bit by bit. -/
theorem logicWorksBitByBit : Obligations.LogicWorksBitByBit := by
  intro x y s
  refine ⟨⟨_, exec_or x y s, ?_, s.setV_writes_only_Vx x _⟩, ⟨_, exec_and x y s, ?_, s.setV_writes_only_Vx x _⟩,
    ⟨_, exec_xor x y s, ?_, s.setV_writes_only_Vx x _⟩⟩
  · intro b _
    rw [State.getV_setV_same, BitVec.getLsbD_or]
  · intro b _
    rw [State.getV_setV_same, BitVec.getLsbD_and]
  · intro b _
    rw [State.getV_setV_same, BitVec.getLsbD_xor, Bool.bne_eq_xor]

/-! ## The flag, then the result -/

theorem State.getV_setFlagThenV_same (s : State) (f : Bool) (x : Nibble) (r : Byte) :
    (s.setFlagThenV f x r).getV x = r := by
  rw [State.getV_setFlagThenV, if_pos rfl]

/-- The flag stands in VF when VF is not the destination. -/
theorem State.getV_setFlagThenV_flag (s : State) (f : Bool) {x : Nibble} (hx : x ≠ flagReg) (r : Byte) :
    (s.setFlagThenV f x r).getV flagReg = flagByte f := by
  rw [State.getV_setFlagThenV, if_neg hx.symm, if_pos rfl]

theorem State.getV_setFlagThenV_other (s : State) (f : Bool) {x z : Nibble} (hx : z ≠ x) (hf : z ≠ flagReg)
    (r : Byte) : (s.setFlagThenV f x r).getV z = s.getV z := by
  rw [State.getV_setFlagThenV, if_neg hx, if_neg hf]

theorem State.sameBytes_setFlagThenV (s : State) (f : Bool) (x : Nibble) (r : Byte) :
    s.sameBytes (s.setFlagThenV f x r) := fun _ => rfl

/-- A flag write and then the result leave every register but Vx and VF, every other field and every byte of
memory as it was. -/
theorem State.setFlagThenV_writes_only_Vx_VF (s : State) (f : Bool) (x : Nibble) (r : Byte) :
    (∀ z, z ≠ x → z ≠ flagReg → (s.setFlagThenV f x r).getV z = s.getV z) ∧
      s.setFlagThenV f x r = { s with v := (s.setFlagThenV f x r).v } ∧ s.sameBytes (s.setFlagThenV f x r) :=
  ⟨fun _ hx hf => s.getV_setFlagThenV_other f hx hf r, s.setFlagThenV_frame f x r,
    s.sameBytes_setFlagThenV f x r⟩

/-- The byte that VF holds after an addition (R150, R157). -/
theorem flagByte_carryOf (a b : Byte) : flagByte (carryOf a b) = if a.toNat + b.toNat > 255 then 1 else 0 := by
  simp only [flagByte, carryOf, decide_eq_true_eq]

@[simp] theorem exec_addVxVy (x y : Nibble) (s : State) :
    exec (.addVxVy x y) s =
      .next (s.setFlagThenV (carryOf (s.getV x) (s.getV y)) x (s.getV x + s.getV y)) := rfl

/-- Settles O23: the carry is written to VF and then the byte sum to Vx, so that with `x = F` the sum stands; both
are computed from the old operands, so that `y = F` reads the old VF. -/
theorem addSetsCarry : Obligations.AddSetsCarry := by
  intro x y s
  refine ⟨_, exec_addVxVy x y s, ?sum, ?carry, s.setFlagThenV_writes_only_Vx_VF _ x _⟩
  case sum => rw [State.getV_setFlagThenV_same, BitVec.toNat_add]
  case carry =>
    intro hx
    rw [s.getV_setFlagThenV_flag _ hx, flagByte_carryOf]

end Sys2Proof.Machine
end

section
/-! The index register (43_index_memory.md): what a write of I leaves alone, and what `LD I` and `ADD I` write. -/

namespace Sys2Proof.Machine

/-- Writing I writes no other field. -/
theorem State.setI_frame (s : State) (a : Nat) : s.setI a = { s with i := (s.setI a).i } := rfl

@[simp] theorem State.readByte_setI (s : State) (a b : Nat) : (s.setI a).readByte b = s.readByte b := rfl

theorem State.sameBytes_setI (s : State) (a : Nat) : s.sameBytes (s.setI a) := s.readByte_setI a

@[simp] theorem exec_ldIAddr (addr : Addr) (s : State) : exec (.ldIAddr addr) s = .next (s.setI addr.toNat) := rfl

@[simp] theorem exec_addIVx (x : Nibble) (s : State) :
    exec (.addIVx x) s = .next (s.setI (s.i.toNat + (s.getV x).toNat)) := rfl

/-- Settles O27: each is one masked write of I, which leaves VF and every other field alone; the mask keeps a
12-bit field as it is and reduces the sum. -/
theorem indexIsSetAndAdded : Obligations.IndexIsSetAndAdded := by
  intro addr x s
  constructor
  · have hi : (s.setI addr.toNat).i.toNat = addr.toNat := mask12_toNat_addr addr
    exact ⟨_, exec_ldIAddr addr s, hi, s.setI_frame _, s.sameBytes_setI _⟩
  · have hi : (s.setI (s.i.toNat + (s.getV x).toNat)).i.toNat = (s.i.toNat + (s.getV x).toNat) % 0x1000 :=
      mask12_toNat _
    exact ⟨_, exec_addIVx x s, hi, s.setI_frame _, s.sameBytes_setI _⟩

end Sys2Proof.Machine
end

section
/-! Display and timers (44_timers_io.md): what `CLS` and the three timer instructions write, and what each leaves
alone. -/

namespace Sys2Proof.Machine

/-! ## The screen -/

@[simp] theorem Framebuffer.blank_length (height : Nat) : (Framebuffer.blank height).length = height :=
  List.length_replicate

/-- Memory is read through `mem` and the configuration alone, so an update of other fields keeps every byte. -/
theorem State.sameBytes_of_mem_eq {s t : State} (hcfg : t.cfg = s.cfg) (hmem : t.mem = s.mem) : s.sameBytes t := by
  intro a
  rw [State.readByte, State.readByte, hcfg, hmem]

@[simp] theorem exec_cls (s : State) :
    exec .cls s = .next { s with fb := Framebuffer.blank s.cfg.displayHeight } := rfl

/-- Settles O34: CLS puts the blank screen of the configured height in place of the old one. -/
theorem clsClearsTheScreen : Obligations.ClsClearsTheScreen := by
  intro s
  exact ⟨_, exec_cls s, Framebuffer.pixel_blank s.cfg.displayHeight, Framebuffer.blank_length s.cfg.displayHeight,
    rfl, State.sameBytes_of_mem_eq rfl rfl⟩

/-! ## The timers -/

@[simp] theorem exec_ldVxDt (x : Nibble) (s : State) : exec (.ldVxDt x) s = .next (s.setV x s.dt) := rfl

@[simp] theorem exec_ldDtVx (x : Nibble) (s : State) : exec (.ldDtVx x) s = .next { s with dt := s.getV x } := rfl

@[simp] theorem exec_ldStVx (x : Nibble) (s : State) : exec (.ldStVx x) s = .next { s with st := s.getV x } := rfl

/-- Settles O39: the read is one write of Vx with DT as it stands; each of the other two writes one timer. -/
theorem timersAreReadAndSet : Obligations.TimersAreReadAndSet := by
  intro x s
  refine ⟨?readDt, ?setDt, ?setSt⟩
  case readDt => exact ⟨_, exec_ldVxDt x s, s.getV_setV_same x s.dt, s.setV_writes_only_Vx x s.dt⟩
  case setDt => exact ⟨_, exec_ldDtVx x s, rfl, rfl, State.sameBytes_of_mem_eq rfl rfl⟩
  case setSt => exact ⟨_, exec_ldStVx x s, rfl, rfl, State.sameBytes_of_mem_eq rfl rfl⟩

end Sys2Proof.Machine
end

section
/-! The decoder against the encoder (30_encoding.md R74, R75, R80): the words that no row matches, and the two
round trips. -/

namespace Sys2Proof

/-! ## The words that no row matches -/

theorem decodeAlu_eq_unknown_iff (w u : Word) :
    decodeAlu w = .unknown u ↔ w.toNat % 16 ∈ [0x8, 0x9, 0xA, 0xB, 0xC, 0xD, 0xF] ∧ w = u := by
  have hlt : w.toNat % 16 < 16 := Nat.mod_lt _ (by decide)
  unfold decodeAlu
  rw [fieldN_toNat]
  generalize w.toNat % 16 = n at hlt
  interval_cases n <;> simp

theorem decodeKeys_eq_unknown_iff (w u : Word) :
    decodeKeys w = .unknown u ↔ w.toNat % 256 ∉ [0x9E, 0xA1] ∧ w = u := by
  unfold decodeKeys
  rw [fieldKk_toNat]
  split <;> simp_all

theorem decodeMisc_eq_unknown_iff (w u : Word) :
    decodeMisc w = .unknown u ↔
      w.toNat % 256 ∉ [0x07, 0x0A, 0x15, 0x18, 0x1E, 0x29, 0x33, 0x55, 0x65] ∧ w = u := by
  unfold decodeMisc
  rw [fieldKk_toNat]
  split <;> simp_all

theorem decodeFixed_ne_unknown (w u : Word) : decodeFixed w ≠ .unknown u := by
  unfold decodeFixed
  split
  · nofun
  · split <;> nofun

theorem fieldN_eq_zero_iff (w : Word) : fieldN w = 0#4 ↔ w.toNat % 16 = 0 := by
  rw [← fieldN_toNat]
  exact BitVec.toNat_eq

theorem decode_eq_unknown_iff (w u : Word) : decode w = .unknown u ↔ isUnknownWord w = true ∧ w = u := by
  have hlt : w.toNat / 0x1000 < 16 := by have := w.isLt; omega
  unfold decode isUnknownWord
  rw [fieldN0_toNat]
  split
  case h_1 h => simp [h, decodeFixed_ne_unknown]
  case h_6 h => by_cases hn : w.toNat % 16 = 0 <;> simp [h, fieldN_eq_zero_iff, hn]
  case h_9 h => simp [h, decodeAlu_eq_unknown_iff, or_assoc]
  case h_10 h => by_cases hn : w.toNat % 16 = 0 <;> simp [h, fieldN_eq_zero_iff, hn]
  case h_15 h => simp [h, decodeKeys_eq_unknown_iff]
  case h_16 =>
    have h : w.toNat / 0x1000 = 15 := by grind
    simp [h, decodeMisc_eq_unknown_iff, and_assoc]
  all_goals
    next h =>
    simp [h]

theorem isUnknownWord_iff (w : Word) : isUnknownWord w = true ↔
    (w.toNat / 0x1000 = 5 ∧ w.toNat % 16 ≠ 0) ∨
    (w.toNat / 0x1000 = 8 ∧ w.toNat % 16 ∈ [0x8, 0x9, 0xA, 0xB, 0xC, 0xD, 0xF]) ∨
    (w.toNat / 0x1000 = 9 ∧ w.toNat % 16 ≠ 0) ∨
    (w.toNat / 0x1000 = 0xE ∧ w.toNat % 256 ∉ [0x9E, 0xA1]) ∨
    (w.toNat / 0x1000 = 0xF ∧ w.toNat % 256 ∉ [0x07, 0x0A, 0x15, 0x18, 0x1E, 0x29, 0x33, 0x55, 0x65]) := by
  unfold isUnknownWord
  split <;> simp_all [or_assoc]

/-- Settles O8: a word decodes to UNKNOWN exactly when it is one of R80's words, and UNKNOWN then holds that word. -/
theorem unknownWordsAreTheListed : Obligations.UnknownWordsAreTheListed := by
  intro w
  simp only [decode_eq_unknown_iff, exists_and_left, exists_eq', and_true, isUnknownWord_iff]

/-! ## Decoding an encoded instruction -/

theorem decode_encAddr_zero {addr : Addr} (hcls : addr ≠ 0x0E0) (hret : addr ≠ 0x0EE) :
    decode (encAddr 0 addr) = .sys addr := by
  have hword : ∀ a : Addr, addr ≠ a → encAddr 0 addr ≠ encAddr 0 a := fun a ha e =>
    ha (by rw [← fieldAddr_encAddr 0 addr, e, fieldAddr_encAddr])
  have h0 : encAddr 0 addr ≠ 0x00E0 := hword _ hcls
  have h1 : encAddr 0 addr ≠ 0x00EE := hword _ hret
  simp only [decode, decodeFixed, fieldN0_encAddr, fieldAddr_encAddr, if_neg h0, if_neg h1]
  rfl

theorem decode_encode {i : Instr} (h : i.wf = true) : decode (encode i) = i := by
  cases i with
  | cls => decide
  | ret => decide
  | sys addr =>
    simp only [Instr.wf, Bool.and_eq_true, bne_iff_ne] at h
    exact decode_encAddr_zero h.1 h.2
  | unknown w => exact (decode_eq_unknown_iff w w).mpr ⟨h, rfl⟩
  | _ => simp [encode, decode, decodeAlu, decodeKeys, decodeMisc]

/-- Settles O6: row by row through the fields of the encoded word; the two bytes in memory order make up that word. -/
theorem decodeOfEncodeIsIdentity : Obligations.DecodeOfEncodeIsIdentity := by
  intro i h
  refine ⟨decode_encode h, fun rest => ?_⟩
  calc decodeBytes (encodeBytes i ++ rest) = .ok (decode (encode i), rest) := decodeBytes_word (encode i) rest
    _ = .ok (i, rest) := by rw [decode_encode h]
/-! ## Encoding a decoded word -/

theorem encAddr_fields (w : Word) : encAddr (fieldN0 w) (fieldAddr w) = w := by
  apply BitVec.eq_of_getLsbD_eq
  intro i hi
  simp only [encAddr, fieldN0, fieldAddr, BitVec.getLsbD_append, BitVec.getLsbD_extractLsb']
  interval_cases i <;> simp

theorem encXkk_fields (w : Word) : encXkk (fieldN0 w) (fieldX w) (fieldKk w) = w := by
  apply BitVec.eq_of_getLsbD_eq
  intro i hi
  simp only [encXkk, fieldN0, fieldX, fieldKk, BitVec.getLsbD_append, BitVec.getLsbD_extractLsb']
  interval_cases i <;> simp

/-- The mask 0xF00F picks the high and the low nibble of a word. -/
theorem and_F00F_eq_iff (w : Word) (op n : Nibble) :
    w &&& 0xF00F = encXyn op 0 0 n ↔ fieldN0 w = op ∧ fieldN w = n := by
  have hrow : w &&& 0xF00F = encXyn (fieldN0 w) 0 0 (fieldN w) := by
    conv_lhs => rw [← word_eq_nibbles w]
    exact Laws.TableRow.xyn_row ..
  rw [hrow]
  constructor
  · intro h
    exact ⟨by simpa using congrArg fieldN0 h, by simpa using congrArg fieldN h⟩
  · rintro ⟨rfl, rfl⟩
    rfl

/-- The mask 0xFF0F clears the y field. -/
theorem and_FF0F (w : Word) : w &&& 0xFF0F = encXyn (fieldN0 w) (fieldX w) 0 (fieldN w) := by
  conv_lhs => rw [← word_eq_nibbles w, show (0xFF0F : Word) = encXyn 0xF 0xF 0 0xF by decide, encXyn_and]
  simp [Laws.TableRow.nibble_and_ones]

theorem encode_decodeFixed {w : Word} (h0 : fieldN0 w = 0) : encode (decodeFixed w) = w := by
  unfold decodeFixed
  split
  · next h => exact h.symm
  · split
    · next h => exact h.symm
    · rw [encode, ← h0, encAddr_fields]

theorem encode_decodeAlu {w : Word} (h0 : fieldN0 w = 8) :
    encode (decodeAlu w) = if fieldN w = 6 ∨ fieldN w = 0xE then w &&& 0xFF0F else w := by
  have hw := word_eq_nibbles w
  rw [and_FF0F]
  rw [h0] at hw ⊢
  unfold decodeAlu
  split
  case h_10 =>

    next h6 _ hE =>
    have hshift : ¬(fieldN w = 6 ∨ fieldN w = 0xE) := by
      rintro (h | h)
      · exact h6 (congrArg BitVec.toNat h)
      · exact hE (congrArg BitVec.toNat h)
    rw [if_neg hshift, encode]
  case h_7 h =>
    rw [if_pos (.inl (BitVec.eq_of_toNat_eq h)), (BitVec.toNat_eq_nat.mp h).2]
    rfl
  case h_9 h =>
    rw [if_pos (.inr (BitVec.eq_of_toNat_eq h)), (BitVec.toNat_eq_nat.mp h).2]
    rfl
  all_goals
    next h =>
    rw [(BitVec.toNat_eq_nat.mp h).2] at hw ⊢
    rwa [if_neg (by decide), encode]

theorem encode_decodeKeys {w : Word} (h0 : fieldN0 w = 0xE) : encode (decodeKeys w) = w := by
  have hw := encXkk_fields w
  rw [h0] at hw
  unfold decodeKeys
  split
  case h_3 => rw [encode]
  all_goals
    next h =>
    rwa [(BitVec.toNat_eq_nat.mp h).2] at hw

theorem encode_decodeMisc {w : Word} (h0 : fieldN0 w = 0xF) : encode (decodeMisc w) = w := by
  have hw := encXkk_fields w
  rw [h0] at hw
  unfold decodeMisc
  split
  case h_10 => rw [encode]
  all_goals
    next h =>
    rwa [(BitVec.toNat_eq_nat.mp h).2] at hw

/-- A word whose high nibble is not 8 is no shift's. -/
theorem encode_decode_of_ne_eight {w : Word} (h8 : fieldN0 w ≠ 8) : encode (decode w) = w := by
  have haddr := encAddr_fields w
  have hxkk := encXkk_fields w
  have hxyn := word_eq_nibbles w
  unfold decode
  split
  case h_1 h => exact encode_decodeFixed (BitVec.eq_of_toNat_eq h)
  case h_6 h =>
    split
    · next hn => rwa [(BitVec.toNat_eq_nat.mp h).2, hn] at hxyn
    · rw [encode]
  case h_10 h =>
    split
    · next hn => rwa [(BitVec.toNat_eq_nat.mp h).2, hn] at hxyn
    · rw [encode]
  case h_9 h => exact absurd (BitVec.eq_of_toNat_eq h) h8
  case h_15 h => exact encode_decodeKeys (BitVec.eq_of_toNat_eq h)
  case h_16 => exact encode_decodeMisc (BitVec.eq_of_toNat_eq (by
      have := (fieldN0 w).isLt
      grind))
  all_goals
    next h =>
    rw [encode]
    rwa [(BitVec.toNat_eq_nat.mp h).2] at haddr hxkk hxyn


theorem encode_decode (w : Word) : encode (decode w) =
    if w &&& 0xF00F = 0x8006 ∨ w &&& 0xF00F = 0x800E then w &&& 0xFF0F else w := by
  have h6 : w &&& 0xF00F = 0x8006 ↔ fieldN0 w = 8 ∧ fieldN w = 6 := and_F00F_eq_iff w 8 6
  have hE : w &&& 0xF00F = 0x800E ↔ fieldN0 w = 8 ∧ fieldN w = 0xE := and_F00F_eq_iff w 8 0xE
  simp only [h6, hE, ← and_or_left]
  by_cases h8 : fieldN0 w = 8
  · have hrow : decode w = decodeAlu w := by rw [decode, h8]; rfl
    simp only [hrow, encode_decodeAlu h8, h8, true_and]
  · rw [if_neg (fun h => h8 h.1), encode_decode_of_ne_eight h8]

/-- A word that decodes to SYS is the encoding of that SYS. -/
theorem encAddr_of_decode_sys {w : Word} {addr : Addr} (h : decode w = .sys addr) : encAddr 0 addr = w := by
  have hne : fieldN0 w ≠ 8 := by
    intro h8
    have hw := encode_decode w
    rw [h] at hw
    have hop := congrArg fieldN0 hw
    split at hop
    · rw [and_FF0F, encode, fieldN0_encAddr, fieldN0_encXyn, h8] at hop
      cases hop
    · rw [encode, fieldN0_encAddr, h8] at hop
      cases hop
  simpa [h, encode] using encode_decode_of_ne_eight hne

theorem decode_wf (w : Word) : (decode w).wf = true := by
  cases h : decode w with
  | sys addr =>
    have hw := encAddr_of_decode_sys h
    simp only [Instr.wf, Bool.and_eq_true, bne_iff_ne]
    constructor
    all_goals
      rintro rfl
      rw [← hw] at h
      revert h
      decide
  | unknown u =>
    obtain ⟨hu, rfl⟩ := (decode_eq_unknown_iff w u).mp h
    exact hu
  | _ => rfl

/-- Settles O7: each row keeps every field of the word it matches, but for the y of the two shifts. -/
theorem encodeOfDecodeRestoresTheWord : Obligations.EncodeOfDecodeRestoresTheWord :=
  fun w => ⟨decode_wf w, encode_decode w⟩

/-! ## Fixed words -/

/-- Settles O9: the two fixed words are compared first, and the rest of the 0nnn row is SYS. -/
theorem zeroWordsAreClsRetOrSys : Obligations.ZeroWordsAreClsRetOrSys := by
  intro addr
  change decode (encAddr 0 addr) = _
  split
  · next h => rw [h]; rfl
  · next hcls =>
    split
    · next h => rw [h]; rfl
    · next hret => exact decode_encAddr_zero hcls hret

/-- Settles O10: each word is a fixed one, so the decoder computes. -/
theorem writtenWordsDecode : Obligations.WrittenWordsDecode := by
  refine ⟨?_, ?_, ?_, ?_, ?_, ?_, ?_, ?_⟩ <;> decide

end Sys2Proof
end

section
/-! What an instruction does to the state, said once for all of them: each meaning as one equation, and the frame
of each (10_state.md R23 to R37, 20_memory.md R52, 40_execution_cycle.md R106, R108). -/

namespace Sys2Proof.Machine

/-! ## The meanings as equations -/

@[simp] theorem exec_ret (s : State) : exec .ret s = .next s.popAndJump := rfl

@[simp] theorem exec_sys (addr : Addr) (s : State) : exec (.sys addr) s = .next s := rfl

@[simp] theorem exec_call (addr : Addr) (s : State) :
    exec (.call addr) s = .next (s.pushAndJump addr.toNat) := rfl

@[simp] theorem exec_seVxKk (x : Nibble) (kk : Byte) (s : State) :
    exec (.seVxKk x kk) s = .next (s.skipIf (decide (s.getV x = kk))) := rfl

@[simp] theorem exec_sneVxKk (x : Nibble) (kk : Byte) (s : State) :
    exec (.sneVxKk x kk) s = .next (s.skipIf (decide (s.getV x ≠ kk))) := rfl

@[simp] theorem exec_seVxVy (x y : Nibble) (s : State) :
    exec (.seVxVy x y) s = .next (s.skipIf (decide (s.getV x = s.getV y))) := rfl

@[simp] theorem exec_sneVxVy (x y : Nibble) (s : State) :
    exec (.sneVxVy x y) s = .next (s.skipIf (decide (s.getV x ≠ s.getV y))) := rfl

@[simp] theorem exec_jpV0Addr (addr : Addr) (s : State) :
    exec (.jpV0Addr addr) s = .next (s.setPc (addr.toNat + (s.getV 0).toNat)) := rfl

@[simp] theorem exec_sub (x y : Nibble) (s : State) :
    exec (.sub x y) s = .next (s.setFlagThenV (noBorrowOf (s.getV x) (s.getV y)) x (s.getV x - s.getV y)) := rfl

@[simp] theorem exec_subn (x y : Nibble) (s : State) :
    exec (.subn x y) s = .next (s.setFlagThenV (noBorrowOf (s.getV y) (s.getV x)) x (s.getV y - s.getV x)) := rfl

@[simp] theorem exec_shr (x : Nibble) (s : State) :
    exec (.shr x) s = .next (s.setFlagThenV (shiftedOutRight (s.getV x)) x (s.getV x >>> 1)) := rfl

@[simp] theorem exec_shl (x : Nibble) (s : State) :
    exec (.shl x) s = .next (s.setFlagThenV (shiftedOutLeft (s.getV x)) x (s.getV x <<< 1)) := rfl

@[simp] theorem exec_rnd (x : Nibble) (kk : Byte) (s : State) :
    exec (.rnd x kk) s = .next (s.takeRandom.setV x (s.randomByte &&& kk)) := rfl

@[simp] theorem exec_skp (x : Nibble) (s : State) :
    exec (.skp x) s = .next (s.takePoll.skipIf (s.keyDown (nib (s.getV x)))) := rfl

@[simp] theorem exec_sknp (x : Nibble) (s : State) :
    exec (.sknp x) s = .next (s.takePoll.skipIf (!s.keyDown (nib (s.getV x)))) := rfl

@[simp] theorem exec_ldVxK (x : Nibble) (s : State) :
    exec (.ldVxK x) s = .next { s with run := .waitingForKey x } := rfl

@[simp] theorem exec_ldFVx (x : Nibble) (s : State) :
    exec (.ldFVx x) s = .next (s.setI (glyphAddr s.cfg (nib (s.getV x)))) := rfl

@[simp] theorem exec_ldBVx (x : Nibble) (s : State) :
    exec (.ldBVx x) s = .next (s.store s.i.toNat (bcdDigits (s.getV x))) := rfl

@[simp] theorem exec_ldIVx (x : Nibble) (s : State) :
    exec (.ldIVx x) s = .next (s.store s.i.toNat (s.regsUpTo x)) := rfl

@[simp] theorem exec_ldVxI (x : Nibble) (s : State) :
    exec (.ldVxI x) s = .next (s.loadRegs 0 (s.readBytes s.i.toNat (x.toNat + 1))) := rfl

@[simp] theorem exec_unknown (w : Word) (s : State) :
    exec (.unknown w) s = .next (s.logEvent (.unknownOpcode s.fetchAddr w)) := rfl

/-- The blit that `DRW Vx, Vy, n` makes: the new screen and whether a lit pixel was hit (44_timers_io.md R212). -/
def State.drawn (s : State) (x y n : Nibble) : Framebuffer × Bool :=
  blit s.cfg.displayHeight (s.getV x).toNat (s.getV y).toNat (s.readBytes s.i.toNat n.toNat) s.fb

@[simp] theorem exec_drw (x y n : Nibble) (s : State) :
    exec (.drw x y n) s = .next ({ s with fb := (s.drawn x y n).1 }.setFlag (s.drawn x y n).2) := rfl

/-- Every instruction completes in every state. -/
theorem exec_completes (i : Instr) (s : State) : ∃ t, exec i s = .next t := by
  cases i <;> exact ⟨_, rfl⟩

/-! ## A store, by whether it halts -/

theorem State.storeHalts_iff (s : State) (base n : Nat) :
    s.storeHalts base n ↔ s.cfg.reservedWrites = .fault ∧ touchesReserved base n = true := by
  simp [State.storeHalts, touchesReserved]

theorem State.store_of_halts {s : State} {base : Nat} {bytes : List Byte} (h : s.storeHalts base bytes.length) :
    s.store base bytes = s.halt .reservedWrite := by
  rw [State.storeHalts_iff] at h
  obtain ⟨-, hn⟩ | ⟨hs, -⟩ := s.store_cases base bytes
  · exact absurd h hn
  · exact hs

theorem State.store_of_not_halts {s : State} {base : Nat} {bytes : List Byte}
    (h : ¬s.storeHalts base bytes.length) :
    s.store base bytes = { s with mem := Memory.writeBytes s.cfg s.mem base bytes } := by
  rw [State.storeHalts_iff] at h
  obtain ⟨hs, -⟩ | ⟨-, hc⟩ := s.store_cases base bytes
  · exact hs
  · exact absurd hc h

/-! ## The frames of the operations that split into cases -/

theorem State.skipIf_frame (s : State) (c : Bool) : s.skipIf c = { s with pc := (s.skipIf c).pc } := by
  cases c <;> rfl

theorem State.pushAndJump_frame (s : State) (a : Nat) :
    s.pushAndJump a = { s with pc := (s.pushAndJump a).pc, sp := (s.pushAndJump a).sp,
                               stack := (s.pushAndJump a).stack, run := (s.pushAndJump a).run } := by
  unfold State.pushAndJump
  split <;> rfl

theorem State.popAndJump_frame (s : State) :
    s.popAndJump = { s with pc := s.popAndJump.pc, sp := s.popAndJump.sp, run := s.popAndJump.run } := by
  unfold State.popAndJump
  split <;> rfl

theorem State.store_frame (s : State) (base : Nat) (bytes : List Byte) :
    s.store base bytes =
      { s with mem := (s.store base bytes).mem, run := (s.store base bytes).run } := by
  obtain ⟨h, -⟩ | ⟨h, -⟩ := s.store_cases base bytes
  · rw [h]
  · rw [h]; rfl

/-! ## The frame of an instruction -/

/-- The instruction that writes DT (10_state.md R30). -/
def writesDelay : Instr → Bool
  | .ldDtVx _ => true
  | _ => false

/-- The instruction that writes ST (10_state.md R31). -/
def writesSound : Instr → Bool
  | .ldStVx _ => true
  | _ => false

/-- The instruction that writes the log (40_execution_cycle.md R108). -/
def writesLog : Instr → Bool
  | .unknown _ => true
  | _ => false

/-- The instruction that takes a random byte (42_alu.md R163). -/
def takesRandom : Instr → Bool
  | .rnd _ _ => true
  | _ => false

/-- The instructions that poll the keypad (44_timers_io.md R215, R216). -/
def pollsKeypad : Instr → Bool
  | .skp _ | .sknp _ => true
  | _ => false

theorem writesDelay_eq_false {i : Instr} (h : ∀ x, i ≠ .ldDtVx x) : writesDelay i = false := by
  cases i with
  | ldDtVx x => exact absurd rfl (h x)
  | _ => rfl

theorem writesSound_eq_false {i : Instr} (h : ∀ x, i ≠ .ldStVx x) : writesSound i = false := by
  cases i with
  | ldStVx x => exact absurd rfl (h x)
  | _ => rfl

theorem writesLog_eq_false {i : Instr} (h : ∀ w, i ≠ .unknown w) : writesLog i = false := by
  cases i with
  | unknown w => exact absurd rfl (h w)
  | _ => rfl

theorem takesRandom_eq_false {i : Instr} (h : ∀ x kk, i ≠ .rnd x kk) : takesRandom i = false := by
  cases i with
  | rnd x kk => exact absurd rfl (h x kk)
  | _ => rfl

theorem pollsKeypad_eq_false {i : Instr} (h : ∀ x, i ≠ .skp x ∧ i ≠ .sknp x) : pollsKeypad i = false := by
  cases i with
  | skp x => exact absurd rfl (h x).1
  | sknp x => exact absurd rfl (h x).2
  | _ => rfl

/-- An instruction leaves every field as it was that the spec does not list it for. -/
theorem exec_frame {i : Instr} {s t : State} (h : exec i s = .next t) :
    t = { s with
      v       := t.v
      i       := if writesIndex i then t.i else s.i
      pc      := if writesPc i then t.pc else s.pc
      sp      := if writesStack i then t.sp else s.sp
      stack   := if writesStack i then t.stack else s.stack
      dt      := if writesDelay i then t.dt else s.dt
      st      := if writesSound i then t.st else s.st
      mem     := if writesMemory i then t.mem else s.mem
      run     := if writesRun i then t.run else s.run
      fb      := if writesScreen i then t.fb else s.fb
      log     := if writesLog i then t.log else s.log
      randoms := if takesRandom i then t.randoms else s.randoms
      keypads := if pollsKeypad i then t.keypads else s.keypads
      draws   := t.draws } := by
  cases i with
  | ret => cases h; rw [s.popAndJump_frame]; rfl
  | call addr => cases h; rw [s.pushAndJump_frame]; rfl
  | seVxKk | sneVxKk | seVxVy | sneVxVy => cases h; rw [s.skipIf_frame]; rfl
  | skp | sknp => cases h; rw [s.takePoll.skipIf_frame]; rfl
  | ldBVx | ldIVx => cases h; rw [s.store_frame]; rfl
  | ldVxI x => cases h; rw [s.loadRegs_frame]; rfl
  | _ => cases h; rfl

section
variable {i : Instr} {s t : State} (h : exec i s = .next t)
include h

theorem exec_keeps_cfg : t.cfg = s.cfg := by rw [exec_frame h]

theorem exec_keeps_phase : t.phase = s.phase := by rw [exec_frame h]

theorem exec_keeps_agenda : t.agenda = s.agenda := by rw [exec_frame h]

theorem exec_keeps_index (hw : writesIndex i = false) : t.i = s.i := by
  rw [exec_frame h, hw]
  rfl

theorem exec_keeps_pc (hw : writesPc i = false) : t.pc = s.pc := by
  rw [exec_frame h, hw]
  rfl

theorem exec_keeps_stack (hw : writesStack i = false) : t.sp = s.sp ∧ t.stack = s.stack := by
  rw [exec_frame h, hw]
  exact ⟨rfl, rfl⟩

theorem exec_keeps_delay (hw : writesDelay i = false) : t.dt = s.dt := by
  rw [exec_frame h, hw]
  rfl

theorem exec_keeps_sound (hw : writesSound i = false) : t.st = s.st := by
  rw [exec_frame h, hw]
  rfl

theorem exec_keeps_memory (hw : writesMemory i = false) : t.mem = s.mem := by
  rw [exec_frame h, hw]
  rfl

theorem exec_keeps_screen (hw : writesScreen i = false) : t.fb = s.fb := by
  rw [exec_frame h, hw]
  rfl

theorem exec_keeps_run (hw : writesRun i = false) : t.run = s.run := by
  rw [exec_frame h, hw]
  rfl

theorem exec_keeps_log (hw : writesLog i = false) : t.log = s.log := by
  rw [exec_frame h, hw]
  rfl

theorem exec_keeps_randoms (hw : takesRandom i = false) : t.randoms = s.randoms := by
  rw [exec_frame h, hw]
  rfl

theorem exec_keeps_keypads (hw : pollsKeypad i = false) : t.keypads = s.keypads := by
  rw [exec_frame h, hw]
  rfl

end

theorem State.getV_of_v_eq {s t : State} (h : t.v = s.v) (z : Nibble) : t.getV z = s.getV z := by
  rw [State.getV, State.getV, h]

theorem exec_keeps_register {i : Instr} {s t : State} (h : exec i s = .next t) {z : Nibble}
    (hw : writesReg i z = false) : t.getV z = s.getV z := by
  cases i with
  | ret => cases h; exact State.getV_of_v_eq (congrArg State.v s.popAndJump_frame) z
  | call addr => cases h; exact State.getV_of_v_eq (congrArg State.v (s.pushAndJump_frame _)) z
  | seVxKk | sneVxKk | seVxVy | sneVxVy => cases h; exact State.getV_of_v_eq (s.skipIf_v _) z
  | skp | sknp => cases h; exact State.getV_of_v_eq (s.takePoll.skipIf_v _) z
  | ldBVx | ldIVx => cases h; exact State.getV_of_v_eq (congrArg State.v (s.store_frame _ _)) z
  | ldVxKk x | addVxKk x | ldVxVy x | or x | and x | xor x | rnd x | ldVxDt x =>
    cases h
    exact State.getV_setV_other _ (by simpa [writesReg] using hw) _
  | addVxVy x | sub x | shr x | subn x | shl x =>
    cases h
    simp only [writesReg, Bool.or_eq_false_iff, beq_eq_false_iff_ne] at hw
    exact s.getV_setFlagThenV_other _ hw.1 hw.2 _
  | drw x y n =>
    cases h
    exact State.getV_setV_other _ (by simpa [writesReg] using hw) _
  | ldVxI x =>
    cases h
    have hx := x.isLt
    have hz : ¬z.toNat ≤ x.toNat := by simpa [writesReg] using hw
    rw [State.getV_loadRegs s 0 _ (by rw [State.readBytes_length]; omega), dif_neg]
    rw [State.readBytes_length]
    omega
  | _ => cases h; rfl

/-- Settles O56: the frame of the instruction field by field, and the registers one by one. -/
theorem onlyTheListedInstructionsWrite : Obligations.OnlyTheListedInstructionsWrite := by
  intro i s t h
  refine ⟨fun z => exec_keeps_register h, exec_keeps_index h, exec_keeps_pc h, exec_keeps_stack h, ?delay, ?sound,
    ?memory, exec_keeps_screen h, exec_keeps_run h, ?log, ?randoms, ?keypads, exec_keeps_cfg h,
    exec_keeps_phase h, exec_keeps_agenda h⟩
  case delay => exact fun hi => exec_keeps_delay h (writesDelay_eq_false hi)
  case sound => exact fun hi => exec_keeps_sound h (writesSound_eq_false hi)
  case memory =>
    intro hw
    have hmem := exec_keeps_memory h hw
    exact ⟨hmem, State.sameBytes_of_mem_eq (exec_keeps_cfg h) hmem⟩
  case log => exact fun hi => exec_keeps_log h (writesLog_eq_false hi)
  case randoms => exact fun hi => exec_keeps_randoms h (takesRandom_eq_false hi)
  case keypads => exact fun hi => exec_keeps_keypads h (pollsKeypad_eq_false hi)

end Sys2Proof.Machine
end

section
/-! The step (40_execution_cycle.md R100, R109): whose turn it is, what the engine's turn does in each state of the
machine, and what the other agents leave alone. -/

namespace Sys2Proof.Machine

/-! ## Whose turn it is -/

/-- The turn that the next step takes: the first of the agenda, the engine's when it is empty. -/
def State.nextTurn (s : State) : Turn := s.agenda.headD .engine

theorem step_eq_takeTurn (s : State) : step s = takeTurn s.nextTurn s.turnTaken := by
  cases h : s.agenda with
  | nil =>
    rw [step_engineNext (.inl h), State.nextTurn, h]
    rfl
  | cons u rest =>
    rw [step_turn h, State.nextTurn, h]
    rfl

theorem State.turnTaken_eq {s : State} {u : Turn} {rest : List Turn} (h : s.agenda = u :: rest) :
    s.turnTaken = { s with agenda := rest } := by
  rw [State.turnTaken, h]
  rfl

/-! ## The engine's turn -/

theorem engineTurn_of_runs {s : State} (h : s.runs) : engineTurn s = exec (decode s.fetchWord) s.advance := by
  obtain ⟨hp, hr⟩ := h
  rw [engineTurn, hp, hr]
  rfl

theorem engineTurn_of_halted {s : State} {r : HaltReason} (hp : s.phase = .started) (hr : s.run = .halted r) :
    engineTurn s = .fault (.halted r) := by
  rw [engineTurn, hp, hr]

theorem engineTurn_of_rest {s : State} (h : s.phase ≠ .started ∨ ∃ x, s.run = .waitingForKey x) :
    engineTurn s = .next s := by
  obtain ⟨hp, hr, -⟩ | ⟨-, he⟩ | ⟨hp, r, hr, -⟩ := engineTurn_cases (s := s) rfl
  · simp [hp, hr] at h
  · exact he
  · simp [hp, hr] at h

/-- An engine's turn that has a next state executes the decoded word on the advanced state, or rests. -/
theorem engineTurn_next_cases {s t : State} (h : engineTurn s = .next t) :
    (s.runs ∧ exec (decode s.fetchWord) s.advance = .next t) ∨
    ((s.phase ≠ .started ∨ ∃ x, s.run = .waitingForKey x) ∧ t = s) := by
  obtain ⟨hp, hr, he⟩ | ⟨hrest, he⟩ | ⟨-, r, -, he⟩ := engineTurn_cases h
  · exact .inl ⟨⟨hp, hr⟩, he.symm⟩
  · exact .inr ⟨hrest, Host.Outcome.next.inj he⟩
  · cases he

theorem State.runs_turnTaken {s : State} (h : s.runs) : s.turnTaken.runs := h

@[simp] theorem State.fetchWord_turnTaken (s : State) : s.turnTaken.fetchWord = s.fetchWord := rfl

/-- The engine's step in a running machine executes the decoded word on the advanced state. -/
theorem step_of_runs {s : State} (hn : s.engineNext) (hr : s.runs) :
    step s = exec (decode s.fetchWord) s.turnTaken.advance := by
  rw [step_engineNext hn, engineTurn_of_runs (State.runs_turnTaken hr), State.fetchWord_turnTaken]

/-- With an empty agenda no turn is taken off it. -/
theorem step_of_runs_of_agenda_nil {s : State} (ha : s.agenda = []) (hr : s.runs) :
    step s = exec (decode s.fetchWord) s.advance := by
  rw [step_of_runs (.inl ha) hr, State.turnTaken_eq_self ha]

/-! ## What the other agents leave alone -/

theorem State.timerTick_frame (s : State) :
    s.timerTick = { s with dt := s.timerTick.dt, st := s.timerTick.st } := by
  unfold State.timerTick
  split <;> rfl

theorem State.keyPress_frame (s : State) (k : Nibble) :
    s.keyPress k = { s with v := (s.keyPress k).v, run := (s.keyPress k).run } := by
  obtain ⟨-, x, -, h⟩ | ⟨-, h⟩ := s.keyPress_cases k
  · rw [h]; rfl
  · rw [h]

theorem State.stopRequest_frame (s : State) : s.stopRequest = { s with run := s.stopRequest.run } := by
  unfold State.stopRequest
  split <;> rfl

theorem State.loadProgram_frame (s : State) (bytes : List Byte) :
    (s.loadProgram bytes).1 =
      { s with mem := (s.loadProgram bytes).1.mem, phase := (s.loadProgram bytes).1.phase } := by
  obtain ⟨-, h⟩ | ⟨-, h⟩ := s.loadProgram_cases bytes <;> rw [h]

theorem State.timerTick_of_not_live {s : State} (h : s.live = false) : s.timerTick = s := by
  rw [State.timerTick, h]
  rfl

theorem State.timerTick_of_live {s : State} (h : s.live = true) :
    s.timerTick = { s with dt := countDown s.dt, st := countDown s.st } := by
  rw [State.timerTick, if_pos h]

theorem State.stopRequest_of_live {s : State} (h : s.live = true) : s.stopRequest = s.halt .stopRequested := by
  rw [State.stopRequest, if_pos h]

theorem State.stopRequest_of_not_live {s : State} (h : s.live = false) : s.stopRequest = s := by
  rw [State.stopRequest, h]
  rfl

theorem State.live_eq_false_iff (s : State) :
    s.live = false ↔ s.phase ≠ .started ∨ ∃ r, s.run = .halted r := by
  rw [← Bool.not_eq_true, s.live_iff, not_and_or]
  simp

theorem State.keyPress_of_waiting {s : State} {x : Nibble} (hp : s.phase = .started)
    (hr : s.run = .waitingForKey x) (k : Nibble) :
    s.keyPress k = { s.setV x (k.setWidth 8) with run := .running } := by
  obtain ⟨-, y, hy, h⟩ | ⟨hn, -⟩ := s.keyPress_cases k
  · cases hr.symm.trans hy
    exact h
  · exact absurd hr (hn.resolve_left (absurd hp) x)

theorem State.keyPress_of_not_waiting {s : State} (hn : s.phase ≠ .started ∨ ∀ x, s.run ≠ .waitingForKey x)
    (k : Nibble) : s.keyPress k = s := by
  obtain ⟨hp, x, hr, -⟩ | ⟨-, h⟩ := s.keyPress_cases k
  · exact absurd hr (hn.resolve_left (absurd hp) x)
  · exact h

theorem State.loadProgram_of_fits {s : State} {bytes : List Byte}
    (h : bytes.length ≤ memSize - s.cfg.programStart.addr) : s.loadProgram bytes =
      ({ s with mem := Memory.writeBytes s.cfg s.mem s.cfg.programStart.addr bytes, phase := .loaded }, .ok) := by
  obtain ⟨-, hl⟩ | ⟨hlt, -⟩ := s.loadProgram_cases bytes
  · exact hl
  · omega

theorem State.loadProgram_of_too_long {s : State} {bytes : List Byte}
    (h : memSize - s.cfg.programStart.addr < bytes.length) :
    s.loadProgram bytes = ({ s with phase := .loadRejected }, .capacityError) := by
  obtain ⟨hle, -⟩ | ⟨-, hl⟩ := s.loadProgram_cases bytes
  · omega
  · exact hl

theorem hostLoad_of_accepting {s : State} (h : s.phase = .created ∨ s.phase = .loadRejected) (bytes : List Byte) :
    hostLoad bytes s = .next (s.loadProgram bytes).1 := by
  unfold hostLoad
  obtain h | h := h <;> rw [h]

theorem hostStart_of_loaded {s : State} (h : s.phase = .loaded) :
    hostStart s = .next { s with phase := .started, run := .running } := by
  rw [hostStart, h]

end Sys2Proof.Machine
end

section
/-! The invariant of a state (`State.Inv`): every step of every agent keeps it (10_state.md R24, R26, R28, R35). -/

namespace Sys2Proof.Machine

/-! ## Bounds that an instruction keeps, field by field -/

theorem State.skipIf_pc_lt {s : State} (hpc : s.pc.toNat < 0x1000) (c : Bool) :
    (s.skipIf c).pc.toNat < 0x1000 := by
  cases c
  · exact hpc
  · exact mask12_lt _

theorem State.pushAndJump_pc_lt {s : State} (hpc : s.pc.toNat < 0x1000) (a : Nat) :
    (s.pushAndJump a).pc.toNat < 0x1000 := by
  unfold State.pushAndJump
  split
  · exact mask12_lt a
  · exact hpc

theorem State.popAndJump_pc_lt {s : State} (hpc : s.pc.toNat < 0x1000) : s.popAndJump.pc.toNat < 0x1000 := by
  unfold State.popAndJump
  split
  · exact mask12_lt _
  · exact hpc

theorem State.pushAndJump_slots_lt {s : State} (hpc : s.pc.toNat < 0x1000)
    (hs : ∀ k : Fin 16, (s.stack.get k).toNat < 0x1000) (a : Nat) (k : Fin 16) :
    ((s.pushAndJump a).stack.get k).toNat < 0x1000 := by
  unfold State.pushAndJump
  split
  · have hk := hs k
    simp only [Vector.get_eq_getElem, Vector.getElem_set] at hk ⊢
    split
    · exact hpc
    · exact hk
  · exact hs k

theorem State.store_mem_wf {s : State} (hm : Memory.wf s.cfg s.mem = true) (base : Nat) (bytes : List Byte) :
    Memory.wf s.cfg (s.store base bytes).mem = true := by
  obtain ⟨h, -⟩ | ⟨h, -⟩ := s.store_cases base bytes <;> rw [h]
  · exact Memory.wf_writeBytes hm base bytes
  · exact hm

section
variable {i : Instr} {s t : State} (h : exec i s = .next t)
include h

theorem exec_index_lt (hi : s.i.toNat < 0x1000) : t.i.toNat < 0x1000 := by
  cases hw : writesIndex i with
  | false => rwa [exec_keeps_index h hw]
  | true =>
    cases i with
    | ldIAddr | addIVx | ldFVx => cases h; exact mask12_lt _
    | _ => cases hw

theorem exec_pc_lt (hpc : s.pc.toNat < 0x1000) : t.pc.toNat < 0x1000 := by
  cases hw : writesPc i with
  | false => rwa [exec_keeps_pc h hw]
  | true =>
    cases i with
    | jp | jpV0Addr => cases h; exact mask12_lt _
    | call addr => cases h; exact State.pushAndJump_pc_lt hpc _
    | ret => cases h; exact State.popAndJump_pc_lt hpc
    | seVxKk | sneVxKk | seVxVy | sneVxVy => cases h; exact State.skipIf_pc_lt hpc _
    | skp | sknp => cases h; exact State.skipIf_pc_lt (s := s.takePoll) hpc _
    | _ => cases hw

theorem exec_slots_lt (hpc : s.pc.toNat < 0x1000) (hs : ∀ k : Fin 16, (s.stack.get k).toNat < 0x1000)
    (k : Fin 16) : (t.stack.get k).toNat < 0x1000 := by
  cases hw : writesStack i with
  | false => rw [(exec_keeps_stack h hw).2]; exact hs k
  | true =>
    cases i with
    | call addr => cases h; exact State.pushAndJump_slots_lt hpc hs _ k
    | ret => cases h; rw [s.popAndJump_frame]; exact hs k
    | _ => cases hw

theorem exec_memory_wf (hm : Memory.wf s.cfg s.mem = true) : Memory.wf t.cfg t.mem = true := by
  rw [exec_keeps_cfg h]
  cases hw : writesMemory i with
  | false => rwa [exec_keeps_memory h hw]
  | true =>
    cases i with
    | ldBVx | ldIVx => cases h; exact State.store_mem_wf hm _ _
    | _ => cases hw

theorem exec_screen_length (hf : s.fb.length = s.cfg.displayHeight) : t.fb.length = t.cfg.displayHeight := by
  rw [exec_keeps_cfg h]
  cases hw : writesScreen i with
  | false => rwa [exec_keeps_screen h hw]
  | true =>
    cases i with
    | cls => cases h; exact Framebuffer.blank_length _
    | drw x y n => cases h; exact (blit_length ..).trans hf
    | _ => cases hw

/-- An instruction keeps the invariant. -/
theorem exec_keeps_inv (hs : s.Inv) : t.Inv where
  config  := by rw [exec_keeps_cfg h]; exact hs.config
  index   := exec_index_lt h hs.index
  counter := exec_pc_lt h hs.counter
  slots   := exec_slots_lt h hs.counter hs.slots
  memory  := exec_memory_wf h hs.memory
  screen  := exec_screen_length h hs.screen

end

/-! ## The other steps -/

theorem State.Inv.turnTaken {s : State} (h : s.Inv) : s.turnTaken.Inv :=
  ⟨h.config, h.index, h.counter, h.slots, h.memory, h.screen⟩

theorem State.Inv.advance {s : State} (h : s.Inv) : s.advance.Inv :=
  ⟨h.config, h.index, mask12_lt _, h.slots, h.memory, h.screen⟩

theorem State.Inv.timerTick {s : State} (h : s.Inv) : s.timerTick.Inv := by
  rw [s.timerTick_frame]
  exact ⟨h.config, h.index, h.counter, h.slots, h.memory, h.screen⟩

theorem State.Inv.keyPress {s : State} (h : s.Inv) (k : Nibble) : (s.keyPress k).Inv := by
  rw [s.keyPress_frame]
  exact ⟨h.config, h.index, h.counter, h.slots, h.memory, h.screen⟩

theorem State.Inv.stopRequest {s : State} (h : s.Inv) : s.stopRequest.Inv := by
  rw [s.stopRequest_frame]
  exact ⟨h.config, h.index, h.counter, h.slots, h.memory, h.screen⟩

theorem State.Inv.loadProgram {s : State} (h : s.Inv) (bytes : List Byte) : (s.loadProgram bytes).1.Inv := by
  obtain ⟨-, hl⟩ | ⟨-, hl⟩ := s.loadProgram_cases bytes <;> rw [hl]
  · exact ⟨h.config, h.index, h.counter, h.slots, Memory.wf_writeBytes h.memory _ _, h.screen⟩
  · exact ⟨h.config, h.index, h.counter, h.slots, h.memory, h.screen⟩

theorem engineTurn_keeps_inv {s t : State} (hs : s.Inv) (h : engineTurn s = .next t) : t.Inv := by
  obtain ⟨-, he⟩ | ⟨-, rfl⟩ := engineTurn_next_cases h
  · exact exec_keeps_inv he hs.advance
  · exact hs

/-- Settles O3: agent by agent; the engine's turn advances pc, and the instruction keeps each bound. -/
theorem everyStepKeepsInvariant : Obligations.EveryStepKeepsInvariant := by
  intro s t hs h
  have hs := hs.turnTaken
  obtain ⟨-, h⟩ | rfl | ⟨k, rfl⟩ | rfl | ⟨bytes, -, rfl⟩ | ⟨-, rfl⟩ := step_next_cases h
  · exact engineTurn_keeps_inv hs h
  · exact hs.timerTick
  · exact hs.keyPress k
  · exact hs.stopRequest
  · exact hs.loadProgram bytes
  · exact ⟨hs.config, hs.index, hs.counter, hs.slots, hs.memory, hs.screen⟩

/-! ## Creation -/

theorem State.readByte_create (cfg : Config) (a : Nat) :
    (State.create cfg).readByte a = resetByte cfg (a % 0x1000) := by
  rw [State.readByte, mask12_toNat]
  rfl

/-- A legal configuration's reset contents: the font where it stands, 0 elsewhere (10_state.md R39). -/
theorem resetByte_of_wf {cfg : Config} (hcfg : cfg.wf) (a : Nat) : resetByte cfg a =
    if h : cfg.fontBase ≤ a ∧ a - cfg.fontBase < cfg.fontData.length then cfg.fontData[a - cfg.fontBase]'h.2
    else 0 := by
  obtain ⟨-, hlen, -⟩ := hcfg
  have hin : (cfg.fontBase ≤ a ∧ a < cfg.fontBase + fontBytes) ↔
      cfg.fontBase ≤ a ∧ a - cfg.fontBase < cfg.fontData.length := by omega
  unfold resetByte
  simp only [hin]
  split
  · next h => rw [List.getD_eq_getElem _ _ h.2]
  · rfl

theorem State.create_pc (cfg : Config) : (State.create cfg).pc.toNat = cfg.programStart.addr := by
  cases h : cfg.programStart <;> simp [State.create, h, ProgramStart.addr]

theorem State.create_inv {cfg : Config} (h : cfg.wf) : (State.create cfg).Inv where
  config := h
  index := (by decide : (0 : Word).toNat < 0x1000)
  counter := by
    rw [State.create_pc]
    cases cfg.programStart <;> decide
  slots := fun k => by simp [State.create, Vector.get_eq_getElem]
  memory := create_memory_wf cfg
  screen := Framebuffer.blank_length _

/-- Settles O1: creation writes each field once, and memory lists nothing, so every byte reads as the reset
contents. -/
theorem creationSetsEveryField : Obligations.CreationSetsEveryField := by
  intro cfg
  refine ⟨fun x => ?_, rfl, ?_, rfl, fun k => ?_, rfl, rfl, Framebuffer.blank_length _,
    Framebuffer.pixel_blank _, rfl, rfl, fun hcfg a ha => ?_⟩
  · simp [State.create, State.getV, Vector.get_eq_getElem]
  · rw [State.create_pc]
    cases cfg.programStart <;> rfl
  · simp [State.create, Vector.get_eq_getElem]
  · rw [State.readByte_create, Nat.mod_eq_of_lt ha, resetByte_of_wf hcfg]

/-- Settles O2: every legal configuration's creation meets it, and reset is the creation of one. -/
theorem creationMeetsInvariant : Obligations.CreationMeetsInvariant := by
  have hstd : Config.standard.wf := by decide
  exact ⟨fun _ => State.create_inv, State.create_inv hstd⟩

end Sys2Proof.Machine
end

section
/-! What no step depends on: the log (60_exceptions.md R258) and the stack slots at and above SP (10_state.md R29,
R38). A step from a state with other values in them is the same step with those values carried along. -/

namespace Sys2Proof.Machine

/-- The state with another log and other stack slots. -/
def State.withLogStack (s : State) (l : List Event) (k : Vector Word 16) : State := { s with log := l, stack := k }

section
variable (s : State) (l : List Event) (k : Vector Word 16)

/-! ## The operations that split into cases carry them along -/

theorem State.skipIf_withLogStack (c : Bool) :
    (s.withLogStack l k).skipIf c = (s.skipIf c).withLogStack l k := by
  cases c <;> rfl

theorem State.loadRegs_withLogStack (n : Nat) (bs : List Byte) :
    (s.withLogStack l k).loadRegs n bs = (s.loadRegs n bs).withLogStack l k := by
  induction bs generalizing s n with
  | nil => rfl
  | cons b bs ih => exact ih (s.setV (BitVec.ofNat 4 n) b) (n + 1)

theorem State.store_withLogStack (base : Nat) (bytes : List Byte) :
    (s.withLogStack l k).store base bytes = (s.store base bytes).withLogStack l k := by
  by_cases h : s.storeHalts base bytes.length
  · rw [State.store_of_halts h, State.store_of_halts (s := s.withLogStack l k) h]
    rfl
  · rw [State.store_of_not_halts h, State.store_of_not_halts (s := s.withLogStack l k) h]
    rfl

theorem State.timerTick_withLogStack : (s.withLogStack l k).timerTick = s.timerTick.withLogStack l k := by
  cases h : s.live
  · rw [State.timerTick_of_not_live h, State.timerTick_of_not_live (s := s.withLogStack l k) h]
  · rw [State.timerTick_of_live h, State.timerTick_of_live (s := s.withLogStack l k) h]
    rfl

theorem State.stopRequest_withLogStack : (s.withLogStack l k).stopRequest = s.stopRequest.withLogStack l k := by
  cases h : s.live
  · rw [State.stopRequest_of_not_live h, State.stopRequest_of_not_live (s := s.withLogStack l k) h]
  · rw [State.stopRequest_of_live h, State.stopRequest_of_live (s := s.withLogStack l k) h]
    rfl

theorem State.keyPress_withLogStack (key : Nibble) :
    (s.withLogStack l k).keyPress key = (s.keyPress key).withLogStack l k := by
  obtain ⟨hp, x, hr, h⟩ | ⟨hn, h⟩ := s.keyPress_cases key
  · rw [h, State.keyPress_of_waiting (s := s.withLogStack l k) hp hr]
    rfl
  · rw [h, State.keyPress_of_not_waiting (s := s.withLogStack l k) hn]

theorem State.loadProgram_withLogStack (bytes : List Byte) :
    ((s.withLogStack l k).loadProgram bytes).1 = (s.loadProgram bytes).1.withLogStack l k := by
  obtain ⟨hlen, h⟩ | ⟨hlen, h⟩ := s.loadProgram_cases bytes
  · rw [h, State.loadProgram_of_fits (s := s.withLogStack l k) hlen]
    rfl
  · rw [h, State.loadProgram_of_too_long (s := s.withLogStack l k) hlen]
    rfl

/-! ## Instructions and turns carry them along -/

/-- An instruction that reaches neither the log nor the stack. -/
theorem exec_withLogStack {i : Instr} {s t : State} (h : exec i s = .next t) (hl : writesLog i = false)
    (hs : writesStack i = false) : exec i (s.withLogStack l k) = .next (t.withLogStack l k) := by
  cases i with
  | seVxKk | sneVxKk | seVxVy | sneVxVy => cases h; exact congrArg _ (s.skipIf_withLogStack l k _)
  | skp | sknp => cases h; exact congrArg _ (s.takePoll.skipIf_withLogStack l k _)
  | ldBVx | ldIVx => cases h; exact congrArg _ (s.store_withLogStack l k _ _)
  | ldVxI x => cases h; exact congrArg _ (s.loadRegs_withLogStack l k _ _)
  | call | ret => cases hs
  | unknown => cases hl
  | _ => cases h; rfl

/-- A turn of the timer or of the host carries other log and slots along, and keeps the log, SP and the slots. -/
theorem takeTurn_withLogStack {u : Turn} (hu : u ≠ .engine) {s t : State} (h : takeTurn u s = .next t) :
    takeTurn u (s.withLogStack l k) = .next (t.withLogStack l k) ∧
      t.log = s.log ∧ t.sp = s.sp ∧ t.stack = s.stack := by
  cases u with
  | engine => exact absurd rfl hu
  | tick =>
    cases h
    refine ⟨congrArg _ (s.timerTick_withLogStack l k), ?_⟩
    rw [s.timerTick_frame]
    exact ⟨rfl, rfl, rfl⟩
  | keyPress key =>
    cases h
    refine ⟨congrArg _ (s.keyPress_withLogStack l k key), ?_⟩
    rw [s.keyPress_frame]
    exact ⟨rfl, rfl, rfl⟩
  | stop =>
    cases h
    refine ⟨congrArg _ (s.stopRequest_withLogStack l k), ?_⟩
    rw [s.stopRequest_frame]
    exact ⟨rfl, rfl, rfl⟩
  | load bytes =>
    obtain ⟨hp, ho⟩ | ⟨-, ho⟩ := hostLoad_cases h
    · cases ho
      refine ⟨?_, ?_⟩
      · exact (hostLoad_of_accepting (s := s.withLogStack l k) hp bytes).trans
          (congrArg _ (s.loadProgram_withLogStack l k bytes))
      · rw [s.loadProgram_frame]
        exact ⟨rfl, rfl, rfl⟩
    · cases ho
  | start =>
    obtain ⟨hp, ho⟩ | ⟨-, ho⟩ := hostStart_cases h
    · cases ho
      exact ⟨hostStart_of_loaded (s := s.withLogStack l k) hp, rfl, rfl, rfl⟩
    · cases ho

end

/-! ## The log -/

theorem State.pushAndJump_withLog (s : State) (l : List Event) (a : Nat) :
    ({ s with log := l } : State).pushAndJump a = { s.pushAndJump a with log := l } := by
  by_cases h : s.sp.val < 16
  · rw [State.pushAndJump_next h, State.pushAndJump_next (s := { s with log := l }) h]
  · have hfull : s.sp.val = 16 := by omega
    rw [State.pushAndJump_full hfull, State.pushAndJump_full (s := { s with log := l }) hfull]
    rfl

theorem State.popAndJump_withLog (s : State) (l : List Event) :
    ({ s with log := l } : State).popAndJump = { s.popAndJump with log := l } := by
  by_cases h : 0 < s.sp.val
  · rw [State.popAndJump_next h, State.popAndJump_next (s := { s with log := l }) h]
  · have hempty : s.sp.val = 0 := by omega
    rw [State.popAndJump_empty hempty, State.popAndJump_empty (s := { s with log := l }) hempty]
    rfl

/-- From any log the step has the same next state, and appends the same events, at most one. -/
def AppendsAlike (f : State → Host.Outcome State Fault Refusal) (s t : State) : Prop :=
  ∃ e, t.log = s.log ++ e ∧ e.length ≤ 1 ∧ ∀ l, f { s with log := l } = .next { t with log := l ++ e }

theorem appendsAlike_of_keeps {f : State → Host.Outcome State Fault Refusal} {s t : State} (hlog : t.log = s.log)
    (h : ∀ l, f { s with log := l } = .next { t with log := l }) : AppendsAlike f s t :=
  ⟨[], by rw [hlog, List.append_nil], Nat.zero_le 1, fun l => by rw [h, List.append_nil]⟩

theorem exec_appendsAlike {i : Instr} {s t : State} (h : exec i s = .next t) : AppendsAlike (exec i) s t := by
  cases hl : writesLog i with
  | true =>
    cases i with
    | unknown w => cases h; exact ⟨[.unknownOpcode s.fetchAddr w], rfl, Nat.le_refl 1, fun _ => rfl⟩
    | _ => cases hl
  | false =>
    refine appendsAlike_of_keeps (exec_keeps_log h hl) fun l => ?_
    cases hs : writesStack i with
    | true =>
      cases i with
      | call addr => cases h; exact congrArg _ (s.pushAndJump_withLog l _)
      | ret => cases h; exact congrArg _ (s.popAndJump_withLog l)
      | _ => cases hs
    | false =>
      have hstack := (exec_keeps_stack h hs).2
      simpa [State.withLogStack, ← hstack] using exec_withLogStack l s.stack h hl hs

theorem engineTurn_appendsAlike {s t : State} (h : engineTurn s = .next t) : AppendsAlike engineTurn s t := by
  obtain ⟨hr, he⟩ | ⟨hrest, rfl⟩ := engineTurn_next_cases h
  · obtain ⟨e, hlog, hlen, hstep⟩ := exec_appendsAlike he
    refine ⟨e, hlog, hlen, fun l => ?_⟩
    rw [engineTurn_of_runs (s := { s with log := l }) hr]
    exact hstep l
  · exact appendsAlike_of_keeps rfl fun l => engineTurn_of_rest (s := { t with log := l }) hrest

theorem takeTurn_appendsAlike {u : Turn} {s t : State} (h : takeTurn u s = .next t) :
    AppendsAlike (takeTurn u) s t := by
  by_cases hu : u = .engine
  · subst hu
    exact engineTurn_appendsAlike h
  · refine appendsAlike_of_keeps (takeTurn_withLogStack [] s.stack hu h).2.1 fun l => ?_
    obtain ⟨hstep, -, -, hstack⟩ := takeTurn_withLogStack l s.stack hu h
    simpa [State.withLogStack, ← hstack] using hstep

theorem step_appendsAlike {s t : State} (h : step s = .next t) : AppendsAlike step s t := by
  rw [step_eq_takeTurn] at h
  obtain ⟨e, hlog, hlen, hstep⟩ := takeTurn_appendsAlike h
  refine ⟨e, hlog, hlen, fun l => ?_⟩
  rw [step_eq_takeTurn]
  exact hstep l

/-- Settles O59: a step carries any log along unread and appends the same events to it. -/
theorem logAffectsNoStep : Obligations.LogAffectsNoStep := by
  intro s t l h
  obtain ⟨e, hlog, -, hstep⟩ := step_appendsAlike h
  exact ⟨e, hlog, hstep l⟩

/-! ## The stack slots at and above SP -/

/-- Two stacks with the same slots below a depth. -/
def AgreeBelow (depth : Fin 17) (k k' : Vector Word 16) : Prop :=
  ∀ j : Fin 16, j.val < depth.val → k.get j = k'.get j

/-- From any stack with the same slots below SP the step has the same next state but for slots at and above SP. -/
def HidesSlots (f : State → Host.Outcome State Fault Refusal) (s t : State) : Prop :=
  ∀ k, AgreeBelow s.sp k s.stack →
    ∃ k', f { s with stack := k } = .next { t with stack := k' } ∧ AgreeBelow t.sp k' t.stack

theorem hidesSlots_of_keeps {f : State → Host.Outcome State Fault Refusal} {s t : State} (hsp : t.sp = s.sp)
    (hstack : t.stack = s.stack) (h : ∀ k, f { s with stack := k } = .next { t with stack := k }) :
    HidesSlots f s t := by
  intro k hk
  refine ⟨k, h k, ?_⟩
  rwa [hsp, hstack]

theorem AgreeBelow.set {depth : Fin 17} {k k' : Vector Word 16} (h : AgreeBelow depth k k') (hd : depth.val < 16)
    (a : Word) : AgreeBelow ⟨depth.val + 1, by omega⟩ (k.set depth.val a hd) (k'.set depth.val a hd) := by
  intro j hj
  simp only [Vector.get_eq_getElem, Vector.getElem_set]
  split
  · rfl
  · next hne => exact h j (Nat.lt_of_le_of_ne (Nat.le_of_lt_succ hj) (Ne.symm hne))

theorem State.pushAndJump_hidesSlots (s : State) (a : Nat) :
    HidesSlots (fun u => .next (u.pushAndJump a)) s (s.pushAndJump a) := by
  by_cases h : s.sp.val < 16
  · intro k hk
    rw [State.pushAndJump_next h]
    exact ⟨k.set s.sp.val s.pc h, congrArg _ (State.pushAndJump_next (s := { s with stack := k }) h a),
      hk.set h s.pc⟩
  · have hfull : s.sp.val = 16 := by omega
    rw [State.pushAndJump_full hfull]
    exact hidesSlots_of_keeps rfl rfl fun k => congrArg _ (State.pushAndJump_full (s := { s with stack := k }) hfull a)

theorem State.popAndJump_hidesSlots (s : State) :
    HidesSlots (fun u => .next u.popAndJump) s s.popAndJump := by
  by_cases h : 0 < s.sp.val
  · intro k hk
    have htop : k[s.sp.val - 1] = s.stack[s.sp.val - 1] := hk ⟨s.sp.val - 1, by omega⟩ (Nat.sub_one_lt_of_lt h)
    rw [State.popAndJump_next h, ← htop]
    exact ⟨k, congrArg _ (State.popAndJump_next (s := { s with stack := k }) h),
      fun j hj => hk j (Nat.lt_of_lt_of_le hj (Nat.sub_le _ 1))⟩
  · have hempty : s.sp.val = 0 := by omega
    rw [State.popAndJump_empty hempty]
    exact hidesSlots_of_keeps rfl rfl fun k => congrArg _ (State.popAndJump_empty (s := { s with stack := k }) hempty)

theorem exec_hidesSlots {i : Instr} {s t : State} (h : exec i s = .next t) : HidesSlots (exec i) s t := by
  cases hs : writesStack i with
  | true =>
    cases i with
    | call addr => cases h; exact s.pushAndJump_hidesSlots _
    | ret => cases h; exact s.popAndJump_hidesSlots
    | _ => cases hs
  | false =>
    obtain ⟨hsp, hstack⟩ := exec_keeps_stack h hs
    refine hidesSlots_of_keeps hsp hstack fun k => ?_
    cases hl : writesLog i with
    | true =>
      cases i with
      | unknown w => cases h; rfl
      | _ => cases hl
    | false =>
      have hlog := exec_keeps_log h hl
      simpa [State.withLogStack, ← hlog] using exec_withLogStack s.log k h hl hs

theorem engineTurn_hidesSlots {s t : State} (h : engineTurn s = .next t) : HidesSlots engineTurn s t := by
  obtain ⟨hr, he⟩ | ⟨hrest, rfl⟩ := engineTurn_next_cases h
  · intro k hk
    obtain ⟨k', hstep, hk'⟩ := exec_hidesSlots he k hk
    refine ⟨k', ?_, hk'⟩
    rw [engineTurn_of_runs (s := { s with stack := k }) hr]
    exact hstep
  · exact hidesSlots_of_keeps rfl rfl fun k => engineTurn_of_rest (s := { t with stack := k }) hrest

theorem takeTurn_hidesSlots {u : Turn} {s t : State} (h : takeTurn u s = .next t) :
    HidesSlots (takeTurn u) s t := by
  by_cases hu : u = .engine
  · subst hu
    exact engineTurn_hidesSlots h
  · obtain ⟨-, hlog, hsp, hstack⟩ := takeTurn_withLogStack [] s.stack hu h
    refine hidesSlots_of_keeps hsp hstack fun k => ?_
    simpa [State.withLogStack, ← hlog] using (takeTurn_withLogStack s.log k hu h).1

/-- Settles O60: a push writes the slot at SP and a pop reads the one below it; nothing else reaches the stack. -/
theorem slotsAboveSPAreHidden : Obligations.SlotsAboveSPAreHidden := by
  intro s t k hk h
  rw [step_eq_takeTurn] at h ⊢
  exact takeTurn_hidesSlots h k hk

end Sys2Proof.Machine
end

section
/-! What every step keeps and what stops a step: halting (60_exceptions.md R251, R264), the parameters, the log and
the lifecycle (00_scope.md R9, 10_state.md R37, 70_reset_and_hazards.md R283, R287). -/

namespace Sys2Proof.Machine

/-! ## Halting -/

/-- A running machine halts in a CALL on a full stack alone. -/
theorem State.pushAndJump_halts {s : State} {a : Nat} {r : HaltReason} (hr : s.run = .running)
    (h : (s.pushAndJump a).run = .halted r) :
    s.pushAndJump a = s.halt r ∧ r = .stackOverflow ∧ s.sp.val = 16 := by
  by_cases hsp : s.sp.val < 16
  · rw [State.pushAndJump_next hsp] at h
    cases hr.symm.trans h
  · have hfull : s.sp.val = 16 := by omega
    rw [State.pushAndJump_full hfull] at h ⊢
    cases h
    exact ⟨rfl, rfl, hfull⟩

theorem State.popAndJump_halts {s : State} {r : HaltReason} (hr : s.run = .running)
    (h : s.popAndJump.run = .halted r) :
    s.popAndJump = s.halt r ∧ r = .stackUnderflow ∧ s.sp.val = 0 := by
  by_cases hsp : 0 < s.sp.val
  · rw [State.popAndJump_next hsp] at h
    cases hr.symm.trans h
  · have hempty : s.sp.val = 0 := by omega
    rw [State.popAndJump_empty hempty] at h ⊢
    cases h
    exact ⟨rfl, rfl, hempty⟩

theorem State.store_halts {s : State} {base : Nat} {bytes : List Byte} {r : HaltReason} (hr : s.run = .running)
    (h : (s.store base bytes).run = .halted r) :
    s.store base bytes = s.halt r ∧ r = .reservedWrite ∧ s.cfg.reservedWrites = .fault := by
  by_cases hs : s.storeHalts base bytes.length
  · rw [State.store_of_halts hs] at h ⊢
    cases h
    exact ⟨rfl, rfl, hs.1⟩
  · rw [State.store_of_not_halts hs] at h
    cases hr.symm.trans h

/-- Settles O57: of the five instructions that write `run` the wait does not halt, and each of the others halts in
place of its writes. -/
theorem haltingInstructionsWriteNothingElse : Obligations.HaltingInstructionsWriteNothingElse := by
  intro i s t r h hr ht
  cases hw : writesRun i with
  | false =>
    rw [exec_keeps_run h hw, hr] at ht
    cases ht
  | true =>
    cases i with
    | ldVxK x => cases h; cases ht
    | call addr =>
      cases h
      obtain ⟨hs, hreason, hfull⟩ := State.pushAndJump_halts hr ht
      exact ⟨hs, .inl ⟨hreason, ⟨addr, rfl⟩, hfull⟩⟩
    | ret =>
      cases h
      obtain ⟨hs, hreason, hempty⟩ := State.popAndJump_halts hr ht
      exact ⟨hs, .inr (.inl ⟨hreason, rfl, hempty⟩)⟩
    | ldBVx x =>
      cases h
      obtain ⟨hs, hreason, hpolicy⟩ := State.store_halts hr ht
      exact ⟨hs, .inr (.inr ⟨hreason, ⟨x, .inl rfl⟩, hpolicy⟩)⟩
    | ldIVx x =>
      cases h
      obtain ⟨hs, hreason, hpolicy⟩ := State.store_halts hr ht
      exact ⟨hs, .inr (.inr ⟨hreason, ⟨x, .inr rfl⟩, hpolicy⟩)⟩
    | _ => cases hw

/-! ## What every step keeps -/

theorem step_keeps_cfg_started {s t : State} (h : step s = .next t) :
    t.cfg = s.cfg ∧ (s.phase = .started → t.phase = .started) := by
  obtain ⟨-, h⟩ | rfl | ⟨k, rfl⟩ | rfl | ⟨bytes, hp, rfl⟩ | ⟨hp, rfl⟩ := step_next_cases h
  · obtain ⟨-, he⟩ | ⟨-, rfl⟩ := engineTurn_next_cases h
    · exact ⟨(exec_keeps_cfg he).trans rfl, fun hp => (exec_keeps_phase he).trans hp⟩
    · exact ⟨rfl, id⟩
  · rw [State.timerTick_frame]
    exact ⟨rfl, id⟩
  · rw [State.keyPress_frame]
    exact ⟨rfl, id⟩
  · rw [State.stopRequest_frame]
    exact ⟨rfl, id⟩
  · rw [State.loadProgram_frame]
    exact ⟨rfl, fun hs => by simp [hs] at hp⟩
  · exact ⟨rfl, fun _ => rfl⟩

/-- Settles O58: no agent writes the parameters or unstarts the machine, and a step appends at most one event. -/
theorem stepsKeepConfigLogAndStart : Obligations.StepsKeepConfigLogAndStart := by
  intro s t h
  obtain ⟨hcfg, hstart⟩ := step_keeps_cfg_started h
  obtain ⟨e, hlog, hlen, -⟩ := step_appendsAlike h
  exact ⟨hcfg, ⟨e, hlog, hlen⟩, hstart⟩

/-! ## What stops a step -/

theorem takeTurn_fault {u : Turn} {s : State} {f : Fault} (h : takeTurn u s = .fault f) :
    u = .engine ∧ s.phase = .started ∧ ∃ r, s.run = .halted r ∧ f = .halted r := by
  cases u with
  | engine =>
    obtain ⟨-, -, he⟩ | ⟨-, he⟩ | ⟨hp, r, hr, he⟩ := engineTurn_cases h
    · obtain ⟨t, ht⟩ := exec_completes (decode s.fetchWord) s.advance
      rw [ht] at he
      cases he
    · cases he
    · cases he
      exact ⟨rfl, hp, r, hr, rfl⟩
  | tick | keyPress | stop => cases h
  | load bytes => obtain ⟨-, ho⟩ | ⟨-, ho⟩ := hostLoad_cases h <;> cases ho
  | start => obtain ⟨-, ho⟩ | ⟨-, ho⟩ := hostStart_cases h <;> cases ho

theorem takeTurn_refused {u : Turn} {s : State} {f : Refusal} (h : takeTurn u s = .refused f) :
    (∃ bytes, u = .load bytes ∧ (s.phase = .loaded ∨ s.phase = .started) ∧ f = .loadOutsideContract) ∨
    (u = .start ∧ s.phase ≠ .loaded ∧ f = .startOutsideContract) := by
  cases u with
  | engine =>
    obtain ⟨-, -, he⟩ | ⟨-, he⟩ | ⟨-, r, -, he⟩ := engineTurn_cases h
    · obtain ⟨t, ht⟩ := exec_completes (decode s.fetchWord) s.advance
      rw [ht] at he
      cases he
    · cases he
    · cases he
  | tick | keyPress | stop => cases h
  | load bytes =>
    obtain ⟨-, ho⟩ | ⟨hp, ho⟩ := hostLoad_cases h
    · cases ho
    · cases ho
      exact .inl ⟨bytes, rfl, hp, rfl⟩
  | start =>
    obtain ⟨-, ho⟩ | ⟨hp, ho⟩ := hostStart_cases h
    · cases ho
    · cases ho
      exact .inr ⟨rfl, hp, rfl⟩

theorem State.engineNext_of_nextTurn {s : State} (h : s.nextTurn = .engine) : s.engineNext := by
  cases ha : s.agenda with
  | nil => exact .inl ha
  | cons u rest =>
    rw [State.nextTurn, ha] at h
    cases h
    exact .inr ⟨rest, ha⟩

/-- Another agent's turn comes next only when it is first in the agenda. -/
theorem State.agenda_of_nextTurn {s : State} {u : Turn} (h : s.nextTurn = u) (hu : u ≠ .engine) :
    ∃ rest, s.agenda = u :: rest := by
  cases ha : s.agenda with
  | nil =>
    rw [State.nextTurn, ha] at h
    exact absurd h.symm hu
  | cons v rest =>
    rw [State.nextTurn, ha] at h
    cases h
    exact ⟨rest, rfl⟩

/-- Settles O48: by whose turn the step takes; an instruction always completes, so the engine stops only when halted,
and of the other agents' turns only the host's load and start can be refused. -/
theorem stepStopsOnlyWhenHaltedOrMisused : Obligations.StepStopsOnlyWhenHaltedOrMisused := by
  intro s
  rw [step_eq_takeTurn]
  refine ⟨fun f h => ?fault, fun f h => ?refused⟩
  case fault =>
    obtain ⟨hu, hp, hr⟩ := takeTurn_fault h
    exact ⟨State.engineNext_of_nextTurn hu, hp, hr⟩
  case refused =>
    obtain ⟨bytes, hu, hp, hf⟩ | ⟨hu, hp, hf⟩ := takeTurn_refused h
    · obtain ⟨rest, ha⟩ := State.agenda_of_nextTurn hu nofun
      exact .inl ⟨bytes, rest, ha, hp, hf⟩
    · obtain ⟨rest, ha⟩ := State.agenda_of_nextTurn hu nofun
      exact .inr ⟨rest, ha, hp, hf⟩

/-- Settles O49: the engine faults, the timer and a stop find the machine not live, a key press finds no wait, and a
load or start is not accepted in a started machine. -/
theorem haltedIsTerminal : Obligations.HaltedIsTerminal := by
  intro s r hp hr
  have hlive : s.turnTaken.live = false := (State.live_eq_false_iff _).mpr (.inr ⟨r, hr⟩)
  have hengine : engineTurn s.turnTaken = .fault (.halted r) := engineTurn_of_halted (s := s.turnTaken) hp hr
  constructor
  · intro hn
    rw [step_engineNext hn, hengine]
  · intro t h
    obtain ⟨-, h⟩ | rfl | ⟨k, rfl⟩ | rfl | ⟨bytes, hload, -⟩ | ⟨hload, -⟩ := step_next_cases h
    · rw [hengine] at h
      cases h
    · exact State.timerTick_of_not_live hlive
    · exact State.keyPress_of_not_waiting (s := s.turnTaken) (.inr fun x => by simp [hr]) k
    · exact State.stopRequest_of_not_live hlive
    · simp [hp] at hload
    · simp [hp] at hload

/-- Settles O50: in a wait and before start the engine's turn passes. -/
theorem engineRestsInWaitAndBeforeStart : Obligations.EngineRestsInWaitAndBeforeStart := by
  intro s hn hrest
  rw [step_engineNext hn]
  exact engineTurn_of_rest (s := s.turnTaken) hrest

/-- Settles O51: before start the machine is not live, so each of the four turns passes. -/
theorem nothingIsTakenBeforeStart : Obligations.NothingIsTakenBeforeStart := by
  intro s u rest hp ha hu
  have hlive : s.turnTaken.live = false := (State.live_eq_false_iff _).mpr (.inl hp)
  rw [step_turn ha, ← State.turnTaken_eq ha]
  obtain rfl | rfl | rfl | ⟨k, rfl⟩ := hu
  · exact engineTurn_of_rest (s := s.turnTaken) (.inl hp)
  · exact congrArg _ (State.timerTick_of_not_live hlive)
  · exact congrArg _ (State.stopRequest_of_not_live hlive)
  · exact congrArg _ (State.keyPress_of_not_waiting (s := s.turnTaken) (.inl hp) k)

/-- Settles O52: a live machine takes the stop, a halted one does not. -/
theorem stopRequestHalts : Obligations.StopRequestHalts := by
  intro s rest ha hp
  have hstep : step s = .next s.turnTaken.stopRequest := step_turn ha
  rw [hstep]
  constructor
  · intro hr
    have hlive : s.turnTaken.live = true := (State.live_iff _).mpr ⟨hp, hr⟩
    rw [State.stopRequest_of_live hlive, State.turnTaken_eq ha]
    rfl
  · intro r hr
    have hlive : s.turnTaken.live = false := (State.live_eq_false_iff _).mpr (.inr ⟨r, hr⟩)
    rw [State.stopRequest_of_not_live hlive, State.turnTaken_eq ha]

end Sys2Proof.Machine
end

section
/-! Control transfer (41_control_flow.md): the stack, the skips and the computed jump, one instruction at a time and
as whole steps. -/

namespace Sys2Proof.Machine

/-! ## One instruction -/

/-- Settles O11: the pop reads the slot below SP, which stays, and an empty stack halts. -/
theorem retPopsOrUnderflows : Obligations.RetPopsOrUnderflows := by
  intro s
  refine ⟨fun h => ?pops, fun h => ?underflows⟩
  case pops =>
    rw [exec_ret, State.popAndJump_next h]
    exact ⟨_, rfl, rfl, mask12_toNat _, rfl, State.sameBytes_of_mem_eq rfl rfl⟩
  case underflows => rw [exec_ret, State.popAndJump_empty h, State.halt]

/-- Settles O13: the push writes the slot at SP, and a full stack halts. -/
theorem callPushesOrOverflows : Obligations.CallPushesOrOverflows := by
  intro addr s
  refine ⟨fun h => ?pushes, fun h => ?overflows⟩
  case pushes =>
    rw [exec_call, State.pushAndJump_next h]
    refine ⟨_, rfl, rfl, ?_, fun k hk => ?_, mask12_toNat_addr addr, rfl, State.sameBytes_of_mem_eq rfl rfl⟩
    · simp [Vector.get_eq_getElem]
    · simp [Vector.get_eq_getElem, Vector.getElem_set_ne, hk.symm]
  case overflows => rw [exec_call, State.pushAndJump_full h, State.halt]

theorem State.skipIf_pc_toNat (s : State) (c : Bool) :
    (s.skipIf c).pc.toNat = if c then (s.pc.toNat + 2) % 0x1000 else s.pc.toNat := by
  cases c
  · rfl
  · exact mask12_toNat _

/-- A skip moves pc by its condition and nothing else. -/
theorem State.skipIf_moves_pc (s : State) (c : Bool) :
    (s.skipIf c).pc.toNat = (if c then (s.pc.toNat + 2) % 0x1000 else s.pc.toNat) ∧
      s.skipIf c = { s with pc := (s.skipIf c).pc } ∧ s.sameBytes (s.skipIf c) :=
  ⟨s.skipIf_pc_toNat c, s.skipIf_frame c, State.sameBytes_of_mem_eq (s.skipIf_cfg c) (s.skipIf_mem c)⟩

/-- A skip on equality. -/
theorem State.skipIf_eq_moves_pc (s : State) (a b : Byte) :
    (s.skipIf (decide (a = b))).pc.toNat = (if a = b then (s.pc.toNat + 2) % 0x1000 else s.pc.toNat) ∧
      s.skipIf (decide (a = b)) = { s with pc := (s.skipIf (decide (a = b))).pc } ∧
      s.sameBytes (s.skipIf (decide (a = b))) := by
  simpa only [decide_eq_true_eq] using s.skipIf_moves_pc (decide (a = b))

/-- A skip on inequality. -/
theorem State.skipIf_ne_moves_pc (s : State) (a b : Byte) :
    (s.skipIf (decide (a ≠ b))).pc.toNat = (if a = b then s.pc.toNat else (s.pc.toNat + 2) % 0x1000) ∧
      s.skipIf (decide (a ≠ b)) = { s with pc := (s.skipIf (decide (a ≠ b))).pc } ∧
      s.sameBytes (s.skipIf (decide (a ≠ b))) := by
  simpa only [decide_eq_true_eq, ne_eq, ite_not] using s.skipIf_moves_pc (decide (a ≠ b))

/-- Settles O14: both are one conditional move of pc. -/
theorem byteSkipsMovePc : Obligations.ByteSkipsMovePc := fun x kk s =>
  ⟨⟨_, exec_seVxKk x kk s, s.skipIf_eq_moves_pc (s.getV x) kk⟩,
    ⟨_, exec_sneVxKk x kk s, s.skipIf_ne_moves_pc (s.getV x) kk⟩⟩

/-- Settles O15: both are one conditional move of pc. -/
theorem registerSkipsMovePc : Obligations.RegisterSkipsMovePc := fun x y s =>
  ⟨⟨_, exec_seVxVy x y s, s.skipIf_eq_moves_pc (s.getV x) (s.getV y)⟩,
    ⟨_, exec_sneVxVy x y s, s.skipIf_ne_moves_pc (s.getV x) (s.getV y)⟩⟩

/-- Settles O16: one masked write of pc. -/
theorem jpV0AddsV0 : Obligations.JpV0AddsV0 := fun addr s =>
  ⟨_, exec_jpV0Addr addr s, mask12_toNat _, s.setPc_frame _, s.sameBytes_setPc _⟩

/-- Settles O45: the meaning of SYS is the state it is given. -/
theorem sysDoesNothing : Obligations.SysDoesNothing := exec_sys

/-! ## Whole steps -/

/-- Settles O4: the engine's step in a running machine, with the fetch and the advance written out. -/
theorem stepExecutesTheDecodedWord : Obligations.StepExecutesTheDecodedWord := fun _ => step_of_runs

theorem State.advance_pc_toNat (s : State) : s.advance.pc.toNat = (s.pc.toNat + 2) % 0x1000 := mask12_toNat _

/-- The skip of an advanced pc ends 4 or 2 past the fetch address. -/
theorem State.skipIf_pc_of_advanced {s t : State} (c : Bool) (h : t.pc = s.advance.pc) :
    (t.skipIf c).pc.toNat = (s.pc.toNat + if c then 4 else 2) % 0x1000 := by
  rw [State.skipIf_pc_toNat, h, State.advance_pc_toNat]
  cases c
  · rfl
  · simp only [if_true]
    omega

/-- Settles O17: each of the six skips is one conditional move of the advanced pc. -/
theorem skipStepsAdvanceByFourOrTwo : Obligations.SkipStepsAdvanceByFourOrTwo := by
  intro s t c hn hr hskip h
  rw [step_of_runs hn hr] at h
  obtain ⟨x, kk, hd, rfl⟩ | ⟨x, kk, hd, rfl⟩ | ⟨x, y, hd, rfl⟩ | ⟨x, y, hd, rfl⟩ | ⟨x, hd, rfl⟩ | ⟨x, hd, rfl⟩ :=
    hskip
  all_goals
    rw [hd] at h
    cases h
    exact State.skipIf_pc_of_advanced _ rfl

/-! ## CALL and RET -/

/-- The state after a CALL with room on the stack: the advanced pc pushed, pc at the target. -/
def State.called (s : State) (addr : Addr) (h : s.sp.val < 16) : State :=
  { s with stack := s.stack.set s.sp.val s.advance.pc h, sp := ⟨s.sp.val + 1, by omega⟩, pc := mask12 addr.toNat }

theorem step_call {s : State} {addr : Addr} (ha : s.agenda = []) (hr : s.runs) (hd : decode s.fetchWord = .call addr)
    (hsp : s.sp.val < 16) : step s = .next (s.called addr hsp) := by
  rw [step_of_runs_of_agenda_nil ha hr, hd, exec_call, State.pushAndJump_next (s := s.advance) hsp]
  rfl

theorem step_call_full {s : State} {addr : Addr} (ha : s.agenda = []) (hr : s.runs)
    (hd : decode s.fetchWord = .call addr) (hsp : s.sp.val = 16) :
    step s = .next (s.advance.halt .stackOverflow) := by
  rw [step_of_runs_of_agenda_nil ha hr, hd, exec_call, State.pushAndJump_full (s := s.advance) hsp]

/-- At a RET the next step brings the machine behind the CALL. -/
theorem step_ret_of_called {s : State} {addr : Addr} (ha : s.agenda = []) (hr : s.runs) (hsp : s.sp.val < 16)
    (hd : decode (s.called addr hsp).fetchWord = .ret) :
    step (s.called addr hsp) = .next { s.called addr hsp with sp := s.sp, pc := mask12 s.advance.pc.toNat } := by
  rw [step_of_runs_of_agenda_nil (s := s.called addr hsp) ha hr, hd, exec_ret,
    State.popAndJump_next (s := (s.called addr hsp).advance) (Nat.succ_pos _)]
  simp [State.called, State.advance, State.setPc]

theorem State.fetchWord_called (s : State) (addr : Addr) (h : s.sp.val < 16) :
    (s.called addr h).fetchWord = s.readByte addr.toNat ++ s.readByte (addr.toNat + 1) := by
  rw [State.fetchWord, State.called, mask12_toNat_addr]
  rfl

theorem run_two_steps {s t u : State} (h : step s = .next t) (h' : step t = .next u) :
    Sys2Proof.core.run 2 s = .next u := by
  rw [run_step h, run_step h']
  rfl

/-- Settles O18: the RET reads the slot that the CALL wrote, which holds the advanced pc. -/
theorem callThenRetComesBack : Obligations.CallThenRetComesBack := by
  intro s addr ha hr hsp hd hhi hlo
  have hret : decode (s.called addr hsp).fetchWord = .ret := by
    rw [State.fetchWord_called, hhi, hlo]
    decide
  have hpc : (mask12 s.advance.pc.toNat).toNat = (s.pc.toNat + 2) % 0x1000 := by
    rw [mask12_toNat, State.advance_pc_toNat, Nat.mod_mod]
  exact ⟨_, run_two_steps (step_call ha hr hd hsp) (step_ret_of_called ha hr hsp hret), hpc, rfl, rfl,
    State.sameBytes_of_mem_eq rfl rfl⟩

/-! ## A CALL to its own address -/

theorem eq_encAddr_of_toNat {w : Word} {op : Nibble} {a : Nat} (ha : a < 0x1000)
    (h : w.toNat = 0x1000 * op.toNat + a) : w = encAddr op (BitVec.ofNat 12 a) := by
  have hop : fieldN0 w = op := by
    apply BitVec.eq_of_toNat_eq
    rw [fieldN0_toNat]
    omega
  have haddr : fieldAddr w = BitVec.ofNat 12 a := by
    apply BitVec.eq_of_toNat_eq
    rw [fieldAddr_toNat, BitVec.toNat_ofNat]
    omega
  rw [← hop, ← haddr, encAddr_fields]

theorem decode_call_of_toNat {w : Word} {a : Nat} (ha : a < 0x1000) (h : w.toNat = 0x2000 + a) :
    decode w = .call (BitVec.ofNat 12 a) := by
  rw [eq_encAddr_of_toNat (op := 2) ha h]
  exact decode_encode (i := .call _) rfl

theorem ofNat_pc_toNat {s : State} (h : s.pc.toNat < 0x1000) : (BitVec.ofNat 12 s.pc.toNat).toNat = s.pc.toNat := by
  rw [BitVec.toNat_ofNat, Nat.mod_eq_of_lt h]

/-- A running machine with no turn to come and `n` return addresses pending, at a CALL to its own address. -/
structure AtSelfCall (n : Nat) (s : State) : Prop where
  agenda  : s.agenda = []
  runs    : s.runs
  depth   : s.sp.val = n
  counter : s.pc.toNat < 0x1000
  word    : s.fetchWord.toNat = 0x2000 + s.pc.toNat

theorem AtSelfCall.decode {n : Nat} {s : State} (h : AtSelfCall n s) :
    decode s.fetchWord = .call (BitVec.ofNat 12 s.pc.toNat) := decode_call_of_toNat h.counter h.word

theorem AtSelfCall.step {n : Nat} {s : State} (h : AtSelfCall n s) (hn : n < 16) :
    ∃ t, step s = .next t ∧ AtSelfCall (n + 1) t ∧ t.pc = s.pc := by
  have hsp : s.sp.val < 16 := h.depth ▸ hn
  have hpc : (s.called (BitVec.ofNat 12 s.pc.toNat) hsp).pc = s.pc := by
    rw [State.called, ofNat_pc_toNat h.counter, mask12_eq_self h.counter]
  have hword : (s.called (BitVec.ofNat 12 s.pc.toNat) hsp).fetchWord = s.fetchWord := by
    rw [State.fetchWord, hpc]
    rfl
  exact ⟨_, step_call h.agenda h.runs h.decode hsp,
    ⟨h.agenda, h.runs, congrArg (· + 1) h.depth, by rw [hpc]; exact h.counter,
      by rw [hword, hpc]; exact h.word⟩, hpc⟩

/-- `k` calls with room for them come to the same CALL, `k` return addresses deeper, and the run goes on there. -/
theorem AtSelfCall.run {n : Nat} {s : State} (h : AtSelfCall n s) (k : Nat) (hk : n + k ≤ 16) :
    ∃ t : State, (∀ m, Sys2Proof.core.run (k + m) s = Sys2Proof.core.run m t) ∧ AtSelfCall (n + k) t ∧
      t.pc = s.pc := by
  induction k generalizing n s with
  | zero => exact ⟨s, fun m => by rw [Nat.zero_add], h, rfl⟩
  | succ k ih =>
    obtain ⟨t, hstep, ht, hpc⟩ := h.step (by omega)
    obtain ⟨u, hrun, hu, hpc'⟩ := ih ht (by omega)
    refine ⟨u, fun m => ?_, by rwa [show n + (k + 1) = n + 1 + k by omega], hpc'.trans hpc⟩
    rw [Nat.succ_add, run_step hstep, hrun]

/-- Settles O19: each of the 16 calls adds one return address and comes to the same CALL, which then halts. -/
theorem seventeenthNestedCallHalts : Obligations.SeventeenthNestedCallHalts := by
  intro s ha hr hsp hpc hword
  obtain ⟨t, hrun, ht, htpc⟩ := AtSelfCall.run ⟨ha, hr, hsp, hpc, hword⟩ 16 (Nat.le_refl 16)
  refine ⟨⟨t, hrun 0, ht.depth, ht.runs.2⟩, t.advance.halt .stackOverflow, ?_, ht.depth, rfl, ?_⟩
  · rw [hrun 1, run_step (step_call_full ht.agenda ht.runs ht.decode ht.depth)]
    rfl
  · rw [State.halt_pc, State.advance_pc_toNat, htpc]

/-! ## A jump to itself -/

theorem decode_jp_of_toNat {w : Word} {a : Nat} (ha : a < 0x1000) (h : w.toNat = 0x1000 + a) :
    decode w = .jp (BitVec.ofNat 12 a) := by
  rw [eq_encAddr_of_toNat (op := 1) ha h]
  exact decode_encode (i := .jp _) rfl

theorem State.setPc_advance (s : State) (a : Nat) : s.advance.setPc a = s.setPc a := rfl

theorem State.setPc_self {s : State} (h : s.pc.toNat < 0x1000) : s.setPc s.pc.toNat = s := by
  rw [State.setPc, mask12_eq_self h]

/-- Settles O55: a running machine at its end is at a self-jump, which moves the advanced pc back. -/
theorem selfJumpStepChangesNothing : Obligations.SelfJumpStepChangesNothing := by
  intro s hr ha hpc hend
  have hword : s.fetchWord.toNat = 0x1000 + s.pc.toNat := by
    obtain ⟨r, hh⟩ | ⟨-, hw⟩ := hend
    · cases hr.2.symm.trans hh
    · exact hw
  rw [step_of_runs_of_agenda_nil ha hr, decode_jp_of_toNat hpc hword, exec_jp, ofNat_pc_toNat hpc,
    State.setPc_advance, State.setPc_self hpc]

end Sys2Proof.Machine
end

section
/-! Subtraction, shifts and the random byte (42_alu.md). -/

namespace Sys2Proof.Machine

theorem toNat_sub_byte (a b : Byte) : (a - b).toNat = (a.toNat + 256 - b.toNat) % 256 := by
  have := b.isLt
  rw [BitVec.toNat_sub]
  omega

/-- The byte that VF holds after a subtraction (R150, R158). -/
theorem flagByte_noBorrowOf (a b : Byte) : flagByte (noBorrowOf a b) = if a.toNat ≥ b.toNat then 1 else 0 := by
  simp only [flagByte, noBorrowOf, decide_eq_true_eq]

/-- A subtraction writes NOT borrow to VF and then the difference to Vx, so that with `x = F` the difference
stands. -/
theorem State.subtraction_effect (s : State) (x : Nibble) (a b : Byte) :
    ((s.setFlagThenV (noBorrowOf a b) x (a - b)).getV x).toNat = (a.toNat + 256 - b.toNat) % 256 ∧
      (x ≠ 0xF → (s.setFlagThenV (noBorrowOf a b) x (a - b)).getV 0xF = if a.toNat ≥ b.toNat then 1 else 0) := by
  refine ⟨?_, fun hx => ?_⟩
  · rw [State.getV_setFlagThenV_same, toNat_sub_byte]
  · rw [s.getV_setFlagThenV_flag _ hx, flagByte_noBorrowOf]

/-- Settles O24: both operands are read before either write, so that x = F and y = F read the old VF. -/
theorem subtractionsSetNotBorrow : Obligations.SubtractionsSetNotBorrow := by
  intro x y s
  constructor
  · obtain ⟨hdiff, hflag⟩ := s.subtraction_effect x (s.getV x) (s.getV y)
    exact ⟨_, exec_sub x y s, hdiff, hflag, s.setFlagThenV_writes_only_Vx_VF _ x _⟩
  · obtain ⟨hdiff, hflag⟩ := s.subtraction_effect x (s.getV y) (s.getV x)
    exact ⟨_, exec_subn x y s, hdiff, hflag, s.setFlagThenV_writes_only_Vx_VF _ x _⟩

theorem flagByte_shiftedOutRight (a : Byte) : (flagByte (shiftedOutRight a)).toNat = a.toNat % 2 := by
  rw [flagByte, shiftedOutRight, BitVec.getLsbD, Nat.testBit_zero]
  obtain h | h := Nat.mod_two_eq_zero_or_one a.toNat <;> simp [h]

theorem flagByte_shiftedOutLeft (a : Byte) : (flagByte (shiftedOutLeft a)).toNat = a.toNat / 128 := by
  have hlt := a.isLt
  rw [flagByte, shiftedOutLeft, BitVec.getLsbD, Nat.testBit_eq_decide_div_mod_eq]
  obtain h | h : a.toNat / 128 = 0 ∨ a.toNat / 128 = 1 := by omega
  · simp [h]
  · simp [h]

/-- Settles O25: VF is written first, then the old Vx shifted, so that with x = F the result stands. -/
theorem shiftsSetTheBitShiftedOut : Obligations.ShiftsSetTheBitShiftedOut := by
  intro x s
  refine ⟨⟨_, exec_shr x s, ?_, fun hx => ?_, s.setFlagThenV_writes_only_Vx_VF _ x _⟩,
    ⟨_, exec_shl x s, ?_, fun hx => ?_, s.setFlagThenV_writes_only_Vx_VF _ x _⟩⟩
  · rw [State.getV_setFlagThenV_same, BitVec.toNat_ushiftRight, Nat.shiftRight_one]
  · rw [s.getV_setFlagThenV_flag _ hx, flagByte_shiftedOutRight]
  · rw [State.getV_setFlagThenV_same, BitVec.toNat_shiftLeft, Nat.shiftLeft_eq]
  · rw [s.getV_setFlagThenV_flag _ hx, flagByte_shiftedOutLeft]

/-- Settles O26: the draw is taken off the source, and one write of Vx. -/
theorem rndMasksTheDraw : Obligations.RndMasksTheDraw := by
  intro x kk s
  have hx : (s.takeRandom.setV x (s.randomByte &&& kk)).getV x = s.randomByte &&& kk := State.getV_setV_same ..
  refine ⟨_, exec_rnd x kk s, hx, fun r rest hr => ?_, fun z hz => State.getV_setV_other _ hz _, rfl,
    State.sameBytes_of_mem_eq rfl rfl⟩
  rw [hx, State.randomByte, hr]
  exact ⟨rfl, congrArg List.tail hr⟩

end Sys2Proof.Machine
end

section
/-! The index register and memory (43_index_memory.md, 20_memory.md): the glyph address, stores and loads through I,
and stores that the next fetch reads. -/

namespace Sys2Proof.Machine

/-! ## The glyph -/

theorem glyphAddr_nib (cfg : Config) (b : Byte) : glyphAddr cfg (nib b) = cfg.fontBase + 5 * (b.toNat % 16) := by
  simp [glyphAddr, nib, glyphBytes]

/-- Settles O28: one masked write of I; a legal font lies below 0x200, so the mask keeps the address. -/
theorem ldFPointsAtTheGlyph : Obligations.LdFPointsAtTheGlyph := by
  intro x s
  have hi : (s.setI (glyphAddr s.cfg (nib (s.getV x)))).i.toNat =
      (s.cfg.fontBase + 5 * ((s.getV x).toNat % 16)) % 0x1000 := by
    rw [State.setI_i, mask12_toNat, glyphAddr_nib]
  refine ⟨_, exec_ldFVx x s, hi, fun hcfg => ?_, s.setI_frame _, s.sameBytes_setI _⟩
  obtain ⟨hfont, -, -⟩ := hcfg
  have hlt : s.cfg.fontBase + 5 * ((s.getV x).toNat % 16) < 0x200 := by
    simp only [fontBytes, reservedEnd] at hfont
    omega
  rw [hi, Nat.mod_eq_of_lt (by omega)]
  exact ⟨rfl, hlt⟩

/-! ## Stores -/

/-- The state with bytes written from an address on. -/
def State.withWritten (s : State) (base : Nat) (bytes : List Byte) : State :=
  { s with mem := Memory.writeBytes s.cfg s.mem base bytes }

theorem State.readByte_withWritten {s : State} (hm : Memory.wf s.cfg s.mem = true) {base : Nat} {bytes : List Byte}
    (hlen : bytes.length ≤ 0x1000) {k : Nat} (hk : k < bytes.length) :
    (s.withWritten base bytes).readByte (base + k) = bytes[k] := by
  rw [State.readByte, mask12_toNat]
  exact Memory.read_writeBytes hm hlen hk

theorem State.sameBytesBut_withWritten (s : State) (base : Nat) (bytes : List Byte) :
    State.sameBytesBut base bytes.length s (s.withWritten base bytes) := by
  intro a ha
  rw [State.readByte, mask12_toNat, State.readByte, mask12_toNat]
  exact Memory.read_writeBytes_other s.mem bytes ha

theorem toNat_ofNat_byte {n : Nat} (h : n < 256) : (BitVec.ofNat 8 n : Byte).toNat = n := by
  rw [BitVec.toNat_ofNat, Nat.mod_eq_of_lt h]

/-- Settles O29: the store writes the list of the three digits, or halts before the first. -/
theorem ldBStoresTheDigits : Obligations.LdBStoresTheDigits := by
  intro x s hm
  have hlt := (s.getV x).isLt
  have hread : ∀ (k : Nat) (hk : k < 3),
      (s.withWritten s.i.toNat (bcdDigits (s.getV x))).readByte (s.i.toNat + k) = (bcdDigits (s.getV x))[k]'hk :=
    fun k hk => State.readByte_withWritten hm (bytes := bcdDigits (s.getV x)) (by simp [bcdDigits]) hk
  refine ⟨fun h => ⟨s.withWritten s.i.toNat (bcdDigits (s.getV x)), ?stores, ?hundreds, ?tens, ?ones,
    s.sameBytesBut_withWritten _ (bcdDigits (s.getV x)), rfl⟩, fun h => ?halts⟩
  case stores => rw [exec_ldBVx, State.store_of_not_halts (bytes := bcdDigits (s.getV x)) h, State.withWritten]
  case halts => rw [exec_ldBVx, State.store_of_halts (bytes := bcdDigits (s.getV x)) h, State.halt]
  case hundreds => exact (congrArg BitVec.toNat (hread 0 (by decide))).trans (toNat_ofNat_byte (by omega))
  case tens => exact (congrArg BitVec.toNat (hread 1 (by decide))).trans (toNat_ofNat_byte (by omega))
  case ones => exact (congrArg BitVec.toNat (hread 2 (by decide))).trans (toNat_ofNat_byte (by omega))

/-- Settles O30: the store writes the list of V0 to Vx, or halts before the first. -/
theorem ldIVxStoresTheRegisters : Obligations.LdIVxStoresTheRegisters := by
  intro x s hm
  have hx := x.isLt
  rw [← s.regsUpTo_length x]
  refine ⟨fun h => ⟨s.withWritten s.i.toNat (s.regsUpTo x), ?stores, fun k hk => ?bytes,
    s.sameBytesBut_withWritten _ (s.regsUpTo x), rfl⟩, fun h => ?halts⟩
  case stores => rw [exec_ldIVx, State.store_of_not_halts h, State.withWritten]
  case halts => rw [exec_ldIVx, State.store_of_halts h, State.halt]
  case bytes =>
    rw [State.readByte_withWritten hm (by rw [s.regsUpTo_length]; omega) (by rw [s.regsUpTo_length]; omega),
      s.regsUpTo_getElem, BitVec.ofNat_toNat, BitVec.setWidth_eq]

/-- Settles O31: the bytes from I on go to the registers from V0 on. -/
theorem ldVxILoadsTheRegisters : Obligations.LdVxILoadsTheRegisters := by
  intro x s
  have hx := x.isLt
  have hlen : 0 + (s.readBytes s.i.toNat (x.toNat + 1)).length ≤ 16 := by
    rw [State.readBytes_length]
    omega
  have hframe := s.loadRegs_frame 0 (s.readBytes s.i.toNat (x.toNat + 1))
  refine ⟨_, exec_ldVxI x s, fun k hk => ?_, fun k hk => ?_, hframe,
    State.sameBytes_of_mem_eq (congrArg State.cfg hframe :) (congrArg State.mem hframe :)⟩
  · rw [s.getV_loadRegs 0 _ hlen, dif_pos (by rw [State.readBytes_length]; omega),
      State.readBytes_getElem, State.readByte_mod, Nat.sub_zero]
  · rw [s.getV_loadRegs 0 _ hlen, dif_neg (by rw [State.readBytes_length]; omega)]

/-- Settles O32: the store leaves I, and the load reads the bytes that it wrote there. -/
theorem storedRegistersLoadBack : Obligations.StoredRegistersLoadBack := by
  intro x s t u v hm hnh hstore hload k hk
  obtain ⟨t', ht, hbytes, -, hframe⟩ := (ldIVxStoresTheRegisters x s hm).1 hnh
  obtain ⟨u', hu, hregs, -⟩ := ldVxILoadsTheRegisters x { t with v := v }
  cases hstore.symm.trans ht
  cases hload.symm.trans hu
  have hi : t.i = s.i := by rw [hframe]
  calc u.getV k = t.readByte ((t.i.toNat + k.toNat) % 0x1000) := hregs k hk
    _ = t.readByte (s.i.toNat + k.toNat) := by rw [State.readByte_mod, hi]
    _ = s.getV k := hbytes k hk

/-! ## Bytes that the next fetch reads -/

/-- Settles O33: the store is at the advanced pc, and the fetch reads memory as the store left it. -/
theorem storeIsSeenByTheNextFetch : Obligations.StoreIsSeenByTheNextFetch := by
  intro s t x hm ha hr hd hx hi hnh h
  rw [step_of_runs_of_agenda_nil ha hr, hd] at h
  obtain ⟨t', ht, hbytes, -, hframe⟩ := (ldIVxStoresTheRegisters x s.advance hm).1 hnh
  cases h.symm.trans ht
  have hpc : t.pc.toNat = s.i.toNat := by rw [hframe, State.advance_pc_toNat, hi]
  have hword : t.fetchWord = s.getV 0 ++ s.getV 1 := by
    have h0 : t.readByte s.i.toNat = s.getV 0 := hbytes 0 (Nat.zero_le _)
    have h1 : t.readByte (s.i.toNat + 1) = s.getV 1 := hbytes 1 hx
    rw [State.fetchWord, hpc, h0, h1]
  have hta : t.agenda = [] := by rw [hframe]; exact ha
  have htr : t.runs := by rw [hframe]; exact hr
  rw [step_of_runs_of_agenda_nil hta htr, hword]

theorem State.fetchWord_withFetchWord {s : State} (hm : Memory.wf s.cfg s.mem = true) (w : Word) :
    (s.withFetchWord 16 w.toNat).fetchWord = w := by
  have hread : ∀ (k : Nat) (hk : k < 2), (s.withFetchWord 16 w.toNat).readByte (s.pc.toNat + k) =
      [highByte (tableWord 16 w.toNat), lowByte (tableWord 16 w.toNat)][k] :=
    fun k hk => State.readByte_withWritten hm (by simp) hk
  have hhi : (s.withFetchWord 16 w.toNat).readByte s.pc.toNat = highByte (tableWord 16 w.toNat) := hread 0 (by decide)
  have hlo : (s.withFetchWord 16 w.toNat).readByte (s.pc.toNat + 1) = lowByte (tableWord 16 w.toNat) :=
    hread 1 (by decide)
  calc (s.withFetchWord 16 w.toNat).fetchWord
      = wordOfBytes (highByte (tableWord 16 w.toNat)) (lowByte (tableWord 16 w.toNat)) := congrArg₂ _ hhi hlo
    _ = w := by rw [wordOfBytes_bytes, tableWord_full]

/-- Settles O5: the two bytes at pc are the word's, and the turn placed first is the engine's. -/
theorem placedWordIsExecuted : Obligations.PlacedWordIsExecuted := by
  intro s w hm
  have hword := State.fetchWord_withFetchWord hm w
  refine ⟨hword, ?_⟩
  rw [step_of_runs (.inr ⟨s.agenda, rfl⟩) ⟨rfl, rfl⟩, hword]
  rfl

/-! ## Unknown words -/

/-- The address an executing instruction was fetched from is the pc before the advance. -/
theorem State.fetchAddr_advance (s : State) : s.advance.fetchAddr = BitVec.ofNat 12 s.pc.toNat := by
  apply BitVec.eq_of_toNat_eq
  rw [State.fetchAddr, State.advance_pc_toNat, BitVec.toNat_ofNat, BitVec.toNat_ofNat]
  omega

/-- Settles O46: UNKNOWN holds the fetched word, and one log event on the advanced state is all it does. -/
theorem unknownWordIsLoggedAndSkipped : Obligations.UnknownWordIsLoggedAndSkipped := by
  intro s w hn hr hd
  obtain ⟨-, rfl⟩ := (decode_eq_unknown_iff _ _).mp hd
  have hstep : step s = .next (s.turnTaken.advance.logEvent
      (.unknownOpcode (BitVec.ofNat 12 s.pc.toNat) s.fetchWord)) := by
    rw [step_of_runs hn hr, hd, exec_unknown, State.fetchAddr_advance, State.turnTaken_pc]
  exact ⟨rfl, _, hstep, rfl, State.advance_pc_toNat s, rfl, State.sameBytes_of_mem_eq rfl rfl⟩

/-- Settles O47: one log event. -/
theorem unknownChangesTheLogAlone : Obligations.UnknownChangesTheLogAlone := by
  intro w s
  refine ⟨_, exec_unknown w s, ?_, rfl, State.sameBytes_of_mem_eq rfl rfl⟩
  rw [State.logEvent_log, State.fetchAddr]
  rfl

/-! ## Load and start -/

/-- Settles O53: a load that fits is one sequence of writes, and one that does not writes the phase alone. -/
theorem loadProgramStoresAllOrNothing : Obligations.LoadProgramStoresAllOrNothing := by
  intro s bytes rest ha hp hm
  have hstep : step s = .next (s.turnTaken.loadProgram bytes).1 :=
    (step_turn ha).trans (hostLoad_of_accepting (s := s.turnTaken) hp bytes)
  rw [hstep]
  refine ⟨fun hfits => ?fits, fun hlong => ?tooLong⟩
  case fits =>
    have hlen : bytes.length ≤ 0x1000 := hfits.trans (Nat.sub_le _ _)
    rw [State.loadProgram_of_fits (s := s.turnTaken) hfits, State.turnTaken_eq ha]
    exact ⟨_, rfl, rfl, fun k hk => State.readByte_withWritten hm hlen hk, s.sameBytesBut_withWritten _ bytes, rfl⟩
  case tooLong => rw [State.loadProgram_of_too_long (s := s.turnTaken) hlong, State.turnTaken_eq ha]

/-- Settles O54: the load of O53 from creation, whose memory is canonical, and then the start. -/
theorem bootReachesTheFirstWord : Obligations.BootReachesTheFirstWord := by
  intro cfg hi lo bytes _ hfits
  obtain ⟨t, hload, -, hbytes, -, hframe⟩ := (loadProgramStoresAllOrNothing
    { State.create cfg with agenda := [.load (hi :: lo :: bytes), .start] } _ _ rfl (.inl rfl)
    (create_memory_wf cfg)).1 hfits
  have hta : t.agenda = [.start] := by rw [hframe]
  have htp : t.phase = .loaded := by rw [hframe]
  have hpc : t.pc.toNat = cfg.programStart.addr := by rw [hframe]; exact State.create_pc cfg
  have hstart : step t = .next { t.turnTaken with phase := .started, run := .running } :=
    (step_turn hta).trans (hostStart_of_loaded (s := t.turnTaken) htp)
  have hword : t.fetchWord = hi ++ lo := by
    rw [State.fetchWord, hpc]
    exact congrArg₂ _ (hbytes 0 (by simp)) (hbytes 1 (by simp))
  refine ⟨_, run_two_steps hload hstart, ⟨rfl, rfl⟩, ?_, hpc, hword⟩
  exact congrArg List.tail hta

end Sys2Proof.Machine
end

section
/-! Keypad and timers (44_timers_io.md): the poll and the wait for a key, the countdown and the tone. -/

namespace Sys2Proof.Machine

/-! ## Keys -/

theorem nib_eq_ofNat (b : Byte) : nib b = BitVec.ofNat 4 b.toNat := by
  apply BitVec.eq_of_toNat_eq
  simp [nib]

theorem State.keyDown_iff_mem {s : State} {down : List Nibble} {rest : List (List Nibble)}
    (h : s.keypads = down :: rest) (k : Nibble) : s.keyDown k = true ↔ k ∈ down := by
  rw [State.keyDown, h]
  exact List.contains_iff_mem

/-- A poll and then a skip: pc moves by the condition and the answer is used up. -/
theorem State.takePoll_skipIf_effect (s : State) (c : Bool) :
    (s.takePoll.skipIf c).pc.toNat = (if c then (s.pc.toNat + 2) % 0x1000 else s.pc.toNat) ∧
      s.takePoll.skipIf c =
        { s with pc := (s.takePoll.skipIf c).pc, keypads := s.keypads.tail, draws := s.draws + 1 } ∧
      s.sameBytes (s.takePoll.skipIf c) :=
  s.takePoll.skipIf_moves_pc c

/-- Settles O38: the key polled is the low nibble, and SKNP skips on the negated answer. -/
theorem keySkipsPollTheLowNibble : Obligations.KeySkipsPollTheLowNibble := by
  intro x s
  refine ⟨fun down rest h => State.keyDown_iff_mem h _, ⟨_, exec_skp x s, ?skp⟩, ⟨_, exec_sknp x s, ?sknp⟩⟩
  case skp =>
    rw [nib_eq_ofNat]
    exact s.takePoll_skipIf_effect _
  case sknp =>
    rw [nib_eq_ofNat]
    have h := s.takePoll_skipIf_effect (!s.keyDown (BitVec.ofNat 4 (s.getV x).toNat))
    simpa only [Bool.not_eq_true', ← Bool.not_eq_true, ite_not] using h

/-- Settles O40: the wait is one write of `run`. -/
theorem ldVxKWaits : Obligations.LdVxKWaits := exec_ldVxK

/-- Settles O41: in a wait the press writes its key to the waiting register and sets the engine running; otherwise it
is not remembered. -/
theorem keyPressEndsAWait : Obligations.KeyPressEndsAWait := by
  intro s k rest ha hp
  have hstep : step s = .next (s.turnTaken.keyPress k) := step_turn ha
  rw [hstep]
  refine ⟨fun x hr => ?waiting, fun hn => ?otherwise⟩
  case waiting =>
    rw [State.keyPress_of_waiting (s := s.turnTaken) hp hr, State.turnTaken_eq ha]
    refine ⟨_, rfl, ?_, fun z hz => State.getV_setV_other s hz _, rfl, State.sameBytes_of_mem_eq rfl rfl⟩
    have hkey : (s.setV x (k.setWidth 8)).getV x = k.setWidth 8 := State.getV_setV_same ..
    exact (congrArg BitVec.toNat hkey).trans (BitVec.toNat_setWidth_of_le (by decide))
  case otherwise =>
    rw [State.keyPress_of_not_waiting (s := s.turnTaken) (.inr hn), State.turnTaken_eq ha]

/-! ## Ticks -/

/-- The step of a tick in a live machine. -/
theorem step_tick_of_live {s : State} {rest : List Turn} (ha : s.agenda = .tick :: rest) (h : s.live = true) :
    step s = .next { s with dt := countDown s.dt, st := countDown s.st, agenda := rest } := by
  have hstep : step s = .next s.turnTaken.timerTick := step_turn ha
  rw [hstep, State.timerTick_of_live (s := s.turnTaken) h, State.turnTaken_eq ha]

theorem step_tick_of_not_live {s : State} {rest : List Turn} (ha : s.agenda = .tick :: rest) (h : s.live = false) :
    step s = .next { s with agenda := rest } := by
  have hstep : step s = .next s.turnTaken.timerTick := step_turn ha
  rw [hstep, State.timerTick_of_not_live (s := s.turnTaken) h, State.turnTaken_eq ha]

/-- Settles O42: the timer is taken exactly in a live machine. -/
theorem tickCountsBothTimersDown : Obligations.TickCountsBothTimersDown := by
  intro s rest ha
  rw [← State.live_iff, Bool.not_eq_true]
  constructor
  · intro h
    exact ⟨_, step_tick_of_live ha h, countDown_toNat s.dt, countDown_toNat s.st, rfl,
      State.sameBytes_of_mem_eq rfl rfl⟩
  · exact step_tick_of_not_live ha

/-- Settles O43: by induction on the number of ticks; each leaves the machine live. -/
theorem ticksNeverGoBelowZero : Obligations.TicksNeverGoBelowZero := by
  intro n
  induction n with
  | zero =>
    intro s ha _ _
    exact ⟨s, rfl, rfl, rfl, by rw [← show s.agenda = [] from ha]⟩
  | succ n ih =>
    intro s ha hp hr
    have hlive : s.live = true := (State.live_iff s).mpr ⟨hp, hr⟩
    obtain ⟨t, hrun, hdt, hst, hframe⟩ :=
      ih { s with dt := countDown s.dt, st := countDown s.st, agenda := List.replicate n .tick } rfl hp hr
    rw [countDown_toNat] at hdt hst
    refine ⟨t, (run_step (step_tick_of_live ha hlive) n).trans hrun, by omega, by omega, hframe⟩

/-- Settles O44: a byte is above 0 exactly when it is not 0, and `LD ST, Vx` sets ST to Vx. -/
theorem toneFollowsST : Obligations.ToneFollowsST := by
  have htone : ∀ s : State, s.tone = true ↔ s.st ≠ 0 := by
    intro s
    rw [State.tone, decide_eq_true_eq, Nat.pos_iff_ne_zero, ne_eq, ne_eq, BitVec.toNat_eq]
    rfl
  intro x s
  refine ⟨htone s, fun t h => ?_⟩
  cases h
  exact htone _

end Sys2Proof.Machine
end

section
/-! Drawing (44_timers_io.md R212): the blit in closed form, pixel by pixel, first for one line and then line after
line. -/

namespace Sys2Proof.Machine

/-! ## The screen as its pixels -/

theorem Framebuffer.ext_pixel {fb fb' : Framebuffer} (hlen : fb.length = fb'.length)
    (h : ∀ row col, fb.pixel row col = fb'.pixel row col) : fb = fb' := by
  apply List.ext_getElem hlen
  intro row hrow hrow'
  ext col hcol
  simpa [Framebuffer.pixel, hrow, hrow', Vector.get_eq_getElem] using h row ⟨col, hcol⟩

theorem eq_spriteCol_iff (px c : Nat) (col : Fin 64) : col = spriteCol px c ↔ col.val = (px + c) % 64 := Fin.ext_iff

/-- Turning a pixel over under a condition. -/
theorem ite_not_eq_bne (a : Bool) (p : Prop) [Decidable p] : (if p then !a else a) = (a != decide p) := by
  split <;> simp [*]

/-- Two turns over under conditions that exclude each other are one. -/
theorem bne_decide_bne_decide (a : Bool) {p q r : Prop} [Decidable p] [Decidable q] [Decidable r]
    (hpq : p → ¬q) (hr : r ↔ p ∨ q) : ((a != decide p) != decide q) = (a != decide r) := by
  by_cases hp : p
  · simp [hp, hpq hp, hr.mpr (.inl hp)]
  · simp [hp, hr]

theorem pixel_blitPixel (bit : Bool) (row row' : Nat) (col col' : Fin 64) (acc : Framebuffer × Bool) :
    (blitPixel bit row col acc).1.pixel row' col' =
      (acc.1.pixel row' col' != decide (row' = row ∧ row < acc.1.length ∧ col' = col ∧ bit = true)) := by
  unfold blitPixel
  cases bit with
  | false => simp
  | true =>
    rw [if_pos rfl, Framebuffer.pixel_flip, ite_not_eq_bne]
    exact congrArg _ (decide_eq_decide.mpr (by tauto))

theorem flag_blitPixel (bit : Bool) (row : Nat) (col : Fin 64) (acc : Framebuffer × Bool) :
    (blitPixel bit row col acc).2 = (acc.2 || (bit && acc.1.pixel row col)) := by
  unfold blitPixel
  cases bit <;> simp

/-! ## One line -/

/-- The pixels of a sprite byte at some of its columns, in turn; the line is all eight of them. -/
def blitCols (px row : Nat) (b : Byte) (cols : List Nat) (acc : Framebuffer × Bool) : Framebuffer × Bool :=
  cols.foldl (fun acc c => blitPixel (b.getLsbD (7 - c)) row (spriteCol px c) acc) acc

theorem blitLine_eq_blitCols (px row : Nat) (b : Byte) (acc : Framebuffer × Bool) :
    blitLine px row b acc = blitCols px row b (List.range 8) acc := rfl

/-- A sprite byte drawn from column `px` on has a set bit at one of some columns that falls on the screen's `col`. -/
def colsHit (px : Nat) (b : Byte) (cols : List Nat) (col : Fin 64) : Bool :=
  cols.any fun c => decide (col.val = (px + c) % 64) && b.getLsbD (7 - c)

theorem colsHit_eq_true_iff (px : Nat) (b : Byte) (cols : List Nat) (col : Fin 64) :
    colsHit px b cols col = true ↔ ∃ c ∈ cols, col = spriteCol px c ∧ b.getLsbD (7 - c) = true := by
  simp [colsHit, eq_spriteCol_iff]

theorem colsHit_cons (px : Nat) (b : Byte) (c : Nat) (cols : List Nat) (col : Fin 64) :
    colsHit px b (c :: cols) col = true ↔
      (col = spriteCol px c ∧ b.getLsbD (7 - c) = true) ∨ colsHit px b cols col = true := by
  simp only [colsHit_eq_true_iff, List.mem_cons, exists_eq_or_imp]

theorem nodup_spriteCols (px : Nat) : ((List.range 8).map (spriteCol px)).Nodup := by
  refine List.Nodup.map_on (fun c hc c' hc' h => ?_) List.nodup_range
  have heq : (px + c) % 64 = (px + c') % 64 := congrArg Fin.val h
  simp only [List.mem_range] at hc hc'
  omega

section
variable (px row : Nat) (b : Byte)

/-- Columns that fall on different screen columns turn over each pixel that they hit. -/
theorem pixel_blitCols {cols : List Nat} (hnodup : (cols.map (spriteCol px)).Nodup) (acc : Framebuffer × Bool)
    (row' : Nat) (col : Fin 64) : (blitCols px row b cols acc).1.pixel row' col =
      (acc.1.pixel row' col != decide (row' = row ∧ row < acc.1.length ∧ colsHit px b cols col = true)) := by
  induction cols generalizing acc with
  | nil => simp [blitCols, colsHit]
  | cons c cols ih =>
    obtain ⟨hc, hnodup⟩ := List.nodup_cons.mp hnodup
    have hdisjoint : col = spriteCol px c → ¬colsHit px b cols col = true := by
      rintro rfl h
      obtain ⟨c', hmem, heq, -⟩ := (colsHit_eq_true_iff ..).mp h
      exact hc (List.mem_map.mpr ⟨c', hmem, heq.symm⟩)
    refine (ih hnodup _).trans ?_
    rw [pixel_blitPixel, blitPixel_length]
    refine bne_decide_bne_decide _ (fun ⟨_, _, hcol, _⟩ ⟨_, _, h⟩ => hdisjoint hcol h) ?_
    rw [colsHit_cons]
    tauto

/-- Columns that fall on different screen columns report a collision when one of them hits a pixel that was lit. -/
theorem flag_blitCols {cols : List Nat} (hnodup : (cols.map (spriteCol px)).Nodup) (acc : Framebuffer × Bool) :
    (blitCols px row b cols acc).2 = true ↔
      acc.2 = true ∨ ∃ col, colsHit px b cols col = true ∧ acc.1.pixel row col = true := by
  induction cols generalizing acc with
  | nil => simp [blitCols, colsHit]
  | cons c cols ih =>
    obtain ⟨hc, hnodup⟩ := List.nodup_cons.mp hnodup
    have hsame : ∀ col, colsHit px b cols col = true →
        (blitPixel (b.getLsbD (7 - c)) row (spriteCol px c) acc).1.pixel row col = acc.1.pixel row col := by
      intro col h
      obtain ⟨c', hmem, rfl, -⟩ := (colsHit_eq_true_iff ..).mp h
      have hne : spriteCol px c' ≠ spriteCol px c := fun e => hc (List.mem_map.mpr ⟨c', hmem, e⟩)
      simp [pixel_blitPixel, hne]
    refine (ih hnodup _).trans ?_
    rw [flag_blitPixel, Bool.or_eq_true, Bool.and_eq_true, or_assoc]
    refine or_congr_right ⟨?_, ?_⟩
    · rintro (⟨hbit, hlit⟩ | ⟨col, hhit, hlit⟩)
      · exact ⟨spriteCol px c, (colsHit_cons ..).mpr (.inl ⟨rfl, hbit⟩), hlit⟩
      · exact ⟨col, (colsHit_cons ..).mpr (.inr hhit), hsame col hhit ▸ hlit⟩
    · rintro ⟨col, hhit, hlit⟩
      obtain ⟨rfl, hbit⟩ | hhit := (colsHit_cons ..).mp hhit
      · exact .inl ⟨hbit, hlit⟩
      · exact .inr ⟨col, hhit, (hsame col hhit).trans hlit⟩

end

/-! ## Line after line -/

theorem blitLines_append (height px py r : Nat) (bs : List Byte) (b : Byte) (acc : Framebuffer × Bool) :
    blitLines height px py r (bs ++ [b]) acc =
      blitLine px (spriteRow height py (r + bs.length)) b (blitLines height px py r bs acc) := by
  induction bs generalizing r acc with
  | nil => rfl
  | cons b' bs ih =>
    rw [List.cons_append, blitLines, ih, blitLines, List.length_cons, Nat.add_right_comm, Nat.add_assoc]

theorem State.readBytes_succ (s : State) (base n : Nat) :
    s.readBytes base (n + 1) = s.readBytes base n ++ [s.readByte (base + n)] := by
  simp [State.readBytes, List.range_succ]

/-- The blit of the first `n` lines that `DRW Vx, Vy` draws from I. -/
def State.drawnLines (s : State) (x y : Nibble) (n : Nat) : Framebuffer × Bool :=
  blit s.cfg.displayHeight (s.getV x).toNat (s.getV y).toNat (s.readBytes s.i.toNat n) s.fb

theorem State.drawn_eq_drawnLines (s : State) (x y n : Nibble) : s.drawn x y n = s.drawnLines x y n.toNat := rfl

theorem State.drawnLines_zero (s : State) (x y : Nibble) : s.drawnLines x y 0 = (s.fb, false) := rfl

theorem State.drawnLines_length (s : State) (x y : Nibble) (n : Nat) : (s.drawnLines x y n).1.length = s.fb.length :=
  blit_length ..

theorem State.drawnLines_succ (s : State) (x y : Nibble) (n : Nat) :
    s.drawnLines x y (n + 1) =
      blitCols (s.getV x).toNat (spriteRow s.cfg.displayHeight (s.getV y).toNat n) (s.readByte (s.i.toNat + n))
        (List.range 8) (s.drawnLines x y n) := by
  rw [State.drawnLines, blit, State.readBytes_succ, blitLines_append, State.readBytes_length, Nat.zero_add,
    blitLine_eq_blitCols]
  rfl

theorem State.spriteHits_iff (s : State) (x y : Nibble) (r row : Nat) (col : Fin 64) :
    s.spriteHits x y r row col = true ↔ row = spriteRow s.cfg.displayHeight (s.getV y).toNat r ∧
      colsHit (s.getV x).toNat (s.readByte (s.i.toNat + r)) (List.range 8) col = true := by
  rw [State.spriteHits, Bool.and_eq_true, decide_eq_true_eq]
  rfl

theorem State.hitsBefore_succ (s : State) (x y : Nibble) (r row : Nat) (col : Fin 64) :
    s.hitsBefore x y (r + 1) row col =
      s.hitsBefore x y r row col + if s.spriteHits x y r row col = true then 1 else 0 := by
  rw [State.hitsBefore, List.range_succ, List.filter_append, List.length_append, State.hitsBefore]
  congr 1
  split <;> simp [*]

/-- One more turn over, of a pixel on the screen that is hit, is one more in the count. -/
theorem bne_decide_odd_succ (a : Bool) (m : Nat) {len hit q : Prop} [Decidable len] [Decidable hit] [Decidable q]
    (hq : q ↔ len ∧ hit) : ((a != decide (len ∧ m % 2 = 1)) != decide q) =
      (a != decide (len ∧ (m + if hit then 1 else 0) % 2 = 1)) := by
  by_cases hlen : len
  · by_cases hhit : hit
    · obtain hm | hm := Nat.mod_two_eq_zero_or_one m <;> simp [hq, hlen, hhit, hm, Nat.add_mod]
    · simp [hq, hhit]
  · simp [hq, hlen]

/-- A pixel of the screen is turned over once for each line that touches it. -/
theorem State.pixel_drawnLines (s : State) (x y : Nibble) (n row : Nat) (col : Fin 64) :
    (s.drawnLines x y n).1.pixel row col =
      (s.fb.pixel row col != decide (row < s.fb.length ∧ s.hitsBefore x y n row col % 2 = 1)) := by
  induction n with
  | zero => simp [State.drawnLines_zero, State.hitsBefore]
  | succ n ih =>
    rw [State.drawnLines_succ, pixel_blitCols _ _ _ (nodup_spriteCols _), ih, State.drawnLines_length,
      State.hitsBefore_succ]
    apply bne_decide_odd_succ
    rw [State.spriteHits_iff]
    constructor
    · rintro ⟨rfl, hlen, hhit⟩
      exact ⟨hlen, rfl, hhit⟩
    · rintro ⟨hlen, rfl, hhit⟩
      exact ⟨rfl, hlen, hhit⟩

/-- A collision is reported when some line touches a pixel that the lines before it left lit. -/
theorem State.flag_drawnLines (s : State) (x y : Nibble) (n : Nat) :
    (s.drawnLines x y n).2 = true ↔ ∃ r < n, ∃ row col, s.spriteHits x y r row col = true ∧
      (s.drawnLines x y r).1.pixel row col = true := by
  induction n with
  | zero => simp [State.drawnLines_zero]
  | succ n ih =>
    rw [State.drawnLines_succ, flag_blitCols _ _ _ (nodup_spriteCols _), ih, Nat.exists_lt_succ_right]
    refine or_congr_right ⟨?_, ?_⟩
    · rintro ⟨col, hhit, hlit⟩
      exact ⟨_, col, (s.spriteHits_iff ..).mpr ⟨rfl, hhit⟩, hlit⟩
    · rintro ⟨row, col, hhit, hlit⟩
      obtain ⟨rfl, hcols⟩ := (s.spriteHits_iff ..).mp hhit
      exact ⟨col, hcols, hlit⟩

/-! ## DRW -/

theorem flagByte_eq_one_iff (f : Bool) : flagByte f = 1 ↔ f = true := by cases f <;> simp [flagByte]

theorem flagByte_eq_one_or_zero (f : Bool) : flagByte f = 1 ∨ flagByte f = 0 := by cases f <;> simp [flagByte]

/-- Under the invariant the pixel is the closed form's. -/
theorem State.Inv.pixel_drawnLines {s : State} (hs : s.Inv) (x y : Nibble) (n : Nat) {row : Nat}
    (hrow : row < s.cfg.displayHeight) (col : Fin 64) :
    (s.drawnLines x y n).1.pixel row col =
      (s.fb.pixel row col != decide (s.hitsBefore x y n row col % 2 = 1)) := by
  rw [State.pixel_drawnLines, hs.screen]
  simp only [hrow, true_and]

/-- A line falls on a row of the screen. -/
theorem State.Inv.row_lt_of_spriteHits {s : State} (hs : s.Inv) {x y : Nibble} {r row : Nat} {col : Fin 64}
    (h : s.spriteHits x y r row col = true) : row < s.cfg.displayHeight := by
  obtain ⟨rfl, -⟩ := (s.spriteHits_iff ..).mp h
  exact Nat.mod_lt _ hs.config.2.2

/-- Settles O35: the closed form of the blit, line after line; the invariant puts every line's row on the screen. -/
theorem drwTurnsTouchedPixelsOver : Obligations.DrwTurnsTouchedPixelsOver := by
  intro x y n s hs
  have hflag : ({ s with fb := (s.drawn x y n).1 }.setFlag (s.drawn x y n).2).getV 0xF =
      flagByte (s.drawn x y n).2 := State.getV_setV_same ..
  refine ⟨_, exec_drw x y n s, fun row hrow col => hs.pixel_drawnLines x y n.toNat hrow col, ?_, ?_,
    fun z hz => State.getV_setV_other _ hz _, rfl, State.sameBytes_of_mem_eq rfl rfl⟩
  · rw [hflag]
    exact flagByte_eq_one_or_zero _
  · rw [hflag, flagByte_eq_one_iff, State.drawn_eq_drawnLines, State.flag_drawnLines]
    refine exists_congr fun r => and_congr_right fun _ => ⟨?_, ?_⟩
    · rintro ⟨row, col, hhit, hlit⟩
      have hrow := hs.row_lt_of_spriteHits hhit
      exact ⟨row, hrow, col, hhit, hs.pixel_drawnLines x y r hrow col ▸ hlit⟩
    · rintro ⟨row, hrow, col, hhit, hlit⟩
      exact ⟨row, col, hhit, (hs.pixel_drawnLines x y r hrow col).trans hlit⟩

/-! ### Drawing twice -/

/-- Which pixels a sprite touches is told by its place, its bytes and the height of the screen. -/
theorem State.hitsBefore_congr {s t : State} {x y : Nibble} (hx : t.getV x = s.getV x) (hy : t.getV y = s.getV y)
    (hi : t.i = s.i) (hcfg : t.cfg = s.cfg) (hmem : t.mem = s.mem) (n row : Nat) (col : Fin 64) :
    t.hitsBefore x y n row col = s.hitsBefore x y n row col := by
  have hbytes : s.sameBytes t := State.sameBytes_of_mem_eq hcfg hmem
  simp only [State.hitsBefore, State.spriteHits, hx, hy, hi, hcfg, hbytes _]

/-- Settles O37: the second draw turns the same pixels over again. -/
theorem drawingTwiceErases : Obligations.DrawingTwiceErases := by
  intro x y n s t u ht hx hy hu
  have hits := State.hitsBefore_congr hx hy (exec_keeps_index ht rfl) (exec_keeps_cfg ht) (exec_keeps_memory ht rfl)
  cases hu
  change (t.drawnLines x y n.toNat).1 = s.fb
  have htfb : t.fb = (s.drawnLines x y n.toNat).1 := by cases ht; rfl
  apply Framebuffer.ext_pixel
  · rw [State.drawnLines_length, htfb, State.drawnLines_length]
  · intro row col
    rw [State.pixel_drawnLines, hits, htfb, State.drawnLines_length, State.pixel_drawnLines,
      Bool.bne_assoc, bne_self_eq_false, Bool.bne_false]

/-! ### A sprite no taller than the screen -/

section
variable {s : State} {x y : Nibble} {row : Nat} {col : Fin 64}

/-- Within one height of the screen a pixel that a line touches was touched by none before it. -/
theorem State.hitsBefore_eq_zero {r : Nat} (hr : r < s.cfg.displayHeight)
    (h : s.spriteHits x y r row col = true) : s.hitsBefore x y r row col = 0 := by
  rw [State.hitsBefore, List.length_eq_zero_iff, List.filter_eq_nil_iff]
  intro r' hr' h'
  have hlt := List.mem_range.mp hr'
  obtain ⟨hrow, -⟩ := (s.spriteHits_iff ..).mp h
  obtain ⟨hrow', -⟩ := (s.spriteHits_iff ..).mp h'
  have hmod : ((s.getV y).toNat + r') % s.cfg.displayHeight = ((s.getV y).toNat + r) % s.cfg.displayHeight :=
    hrow'.symm.trans hrow
  have := Nat.ModEq.add_left_cancel' _ hmod
  rw [Nat.ModEq, Nat.mod_eq_of_lt hr, Nat.mod_eq_of_lt (hlt.trans hr)] at this
  omega

/-- Within one height of the screen a pixel is turned over exactly when some line touches it. -/
theorem State.hitsBefore_odd_iff {n : Nat} (hn : n ≤ s.cfg.displayHeight) :
    s.hitsBefore x y n row col % 2 = 1 ↔ ∃ r < n, s.spriteHits x y r row col = true := by
  induction n with
  | zero => simp [State.hitsBefore]
  | succ n ih =>
    rw [State.hitsBefore_succ, Nat.exists_lt_succ_right]
    cases h : s.spriteHits x y n row col
    · simp [ih (by omega)]
    · simp [State.hitsBefore_eq_zero (by omega) h]

end

/-- Settles O36: a touched pixel is turned over once, so a collision is a lit pixel that is dark afterwards. -/
theorem drwFlagTellsAnErasedPixel : Obligations.DrwFlagTellsAnErasedPixel := by
  intro x y n s t hs hn ht
  obtain ⟨t', ht', hpixel, hbit, hflag, -⟩ := drwTurnsTouchedPixelsOver x y n s hs
  cases ht.symm.trans ht'
  have herased : t.getV 0xF = 1 ↔ ∃ row < s.cfg.displayHeight, ∃ col,
      s.fb.pixel row col = true ∧ t.fb.pixel row col = false := by
    rw [hflag]
    constructor
    · rintro ⟨r, hr, row, hrow, col, hhit, hlit⟩
      have hzero := State.hitsBefore_eq_zero (by omega) hhit
      have hodd := (State.hitsBefore_odd_iff hn).mpr ⟨r, hr, hhit⟩
      simp only [hzero] at hlit
      refine ⟨row, hrow, col, by simpa using hlit, ?_⟩
      rw [hpixel row hrow col, hodd]
      simpa using hlit
    · rintro ⟨row, hrow, col, hlit, hdark⟩
      rw [hpixel row hrow col, hlit] at hdark
      obtain ⟨r, hr, hhit⟩ := (State.hitsBefore_odd_iff hn).mp (by simpa using hdark)
      have hzero := State.hitsBefore_eq_zero (by omega) hhit
      exact ⟨r, hr, row, hrow, col, hhit, by simp [hlit, hzero]⟩
  refine ⟨herased, ?_⟩
  have hzero : t.getV 0xF = 0 ↔ ¬t.getV 0xF = 1 := by
    obtain h | h := hbit <;> rw [h] <;> decide
  rw [hzero, herased]
  simp only [not_exists, not_and, Bool.not_eq_false]

end Sys2Proof.Machine
end
